-- ==== Sys2Proof/Word.lean ====
section
/-! DEFINITION. The word types of MTFE: octets, the 64-bit general registers, the 32-bit command word, the three
octet-addressed spaces and the port identity (00_scope.md R11, R12; 10_state.md R31, R47). -/

namespace Sys2Proof

/-- An octet is 8 bits (R11). -/
abbrev Octet := BitVec 8

/-- A general register `x[i]` holds 64 bits (R31). -/
abbrev Word64 := BitVec 64

/-- A command is one 32-bit word (R100). -/
abbrev CommandWord := BitVec 32

/-- `Val`, the type of decoded values and of values to send, held as the 64-bit handle the register map gives `R_DATA`
and `A_DATASEND` (R54, R63, R67, R276). -/
abbrev Val := BitVec 64

/-- The three octet-addressed spaces: the receive buffer, the send buffer and the display text (R70, R71, R72). -/
inductive Space where
  | rx
  | tx
  | disp
deriving DecidableEq, Repr

/-- A PortIdentity: the clock identity in the register image of R191, then the port number (R47, R131). -/
structure PortIdentity where
  cid : BitVec 64
  port : BitVec 16
deriving DecidableEq, Repr

end Sys2Proof
end

