-- ==== Sys2Proof/Config.lean ====
section
/-! DEFINITION. What an implementation fixes (00_scope.md R8: the parameters of the model, none of them state), and the
free values that the spec leaves unspecified (93_implementation_defined.md Part 1). -/

namespace Sys2Proof

/-- The `size` column of a registry row, an integer of at least -2 (R260, R261). -/
inductive RowSize where
  /-- `size >= 0`: the fixed octet count of the dataField. -/
  | fixed (octets : Nat)
  /-- `size = -1`: unsupported on this build. -/
  | unsupported
  /-- `size = -2`: a function of the current value. -/
  | byValue
deriving DecidableEq, Repr

/-- A row of the registry (R260). `scope` is carried because the source lists it; no command reads it (R263);
its type is a DESIGN CHOICE (log entry 16). -/
structure Row where
  scope : Nat
  allowGet : Bool
  allowSet : Bool
  allowCommand : Bool
  size : RowSize
  linuxptpOnly : Bool
deriving DecidableEq, Repr

/-- The error codes the per-ID processor may answer (R264, R266). -/
inductive ProcError where
  | tooSmall
  | val
  | sizeMiss
  | mem
deriving DecidableEq, Repr

/-- The length of the PTP header in octets (R113). -/
def ptpHeaderLen : Nat := 34

/-- `OFF_SEQ`: `sequenceId`, the one offset in the PTP header that the source gives (R8, R118). -/
def offSeq : Nat := 30

/-- The header offsets and the flag mask that R113 marks as general knowledge and R8 makes arguments of the model. -/
structure HeaderLayout where
  /-- `OFF_TSMT`: transportSpecific and messageType. -/
  offTsmt : Nat
  /-- `OFF_VER`: versionPTP. -/
  offVer : Nat
  /-- `OFF_MSGLEN`: `messageLength`. -/
  offMsgLen : Nat
  /-- `OFF_DOMAIN`: `domainNumber`. -/
  offDomain : Nat
  /-- `OFF_FLAGS`: the first octet of `flagField`. -/
  offFlags : Nat
  /-- `UNICAST_MASK`: the unicast flag in the first octet of `flagField` (R117). -/
  unicastMask : Octet
  /-- `OFF_SRCPORT`: `sourcePortIdentity`. -/
  offSrcPort : Nat
  /-- `OFF_CONTROL`: `controlField`. -/
  offControl : Nat
  /-- `OFF_LOGINT`: `logMessageInterval`. -/
  offLogInt : Nat
deriving DecidableEq, Repr

/-- The values R8 recommends, those of the layout of R113. -/
def HeaderLayout.recommended : HeaderLayout where
  offTsmt := 0
  offVer := 1
  offMsgLen := 2
  offDomain := 4
  offFlags := 6
  unicastMask := 0x04
  offSrcPort := 20
  offControl := 32
  offLogInt := 33

/-- Where each field of the PTP header lies: its offset and its octets (R113). -/
def HeaderLayout.spans (l : HeaderLayout) : List (Nat × Nat) :=
  [(l.offTsmt, 1), (l.offVer, 1), (l.offMsgLen, 2), (l.offDomain, 1), (l.offFlags, 2), (l.offSrcPort, 10), (offSeq, 2),
   (l.offControl, 1), (l.offLogInt, 1)]

/-- Two fields share no octet. -/
abbrev SpansApart (a b : Nat × Nat) : Prop := a.1 + a.2 ≤ b.1 ∨ b.1 + b.2 ≤ a.1

/-- A layout the header can have: every field inside the 34 octets, no two of them sharing one, the mask a single bit.
DEDUCED from R113 and R117: log entry 6. -/
def HeaderLayout.wf (l : HeaderLayout) : Bool :=
  decide ((∀ f ∈ l.spans, f.1 + f.2 ≤ ptpHeaderLen) ∧ l.spans.Pairwise SpansApart ∧
    l.unicastMask ∈ [0x01, 0x02, 0x04, 0x08, 0x10, 0x20, 0x40, 0x80])

/-- The parameters of R8 that no source fixes. `RX_SIZE` and `TX_SIZE` are held as what exceeds their lower bounds 48 and
54, so that the bounds of D29 hold of every value. -/
structure Impl where
  /-- `RX_SIZE - 48`, from 0 to 65487. -/
  rxExtra : Fin 65488
  /-- `TX_SIZE - 54`, from 0 to 65481. -/
  txExtra : Fin 65482
  /-- `ACCEPT_GET_AS_RESPONDER` (R203, conflict C6). -/
  acceptGetAsResponder : Bool
  /-- `REG`, a partial function from a wire value to a row (R260). -/
  reg : BitVec 16 → Option Row
  /-- `PROC.parse id act octets` (R264). -/
  procParse : BitVec 16 → BitVec 4 → List Octet → Except ProcError Val
  /-- `PROC.build id act ds` (R266). It is given the handle alone, so a handle names one value for the whole run, also
  after a later SET_ACTION replaced it. The spec leaves that open: R272 binds the host only while the value is attached.
  DESIGN CHOICE, unsafe: log entry 14. -/
  procBuild : BitVec 16 → BitVec 4 → Option Val → Except ProcError (List Octet)
  /-- The header offsets and `UNICAST_MASK` (R8, R113). The default is what R8 recommends. -/
  header : HeaderLayout := .recommended
  /-- The header is one that its 34 octets can hold (log entry 6). -/
  headerOk : header.wf = true := by decide
deriving Inhabited

/-- `RX_SIZE`, between 48 and 65535 (R8). -/
def Impl.rxSize (c : Impl) : Nat := c.rxExtra.val + 48

/-- `TX_SIZE`, between 54 and 65535 (R8). -/
def Impl.txSize (c : Impl) : Nat := c.txExtra.val + 54

/-- The registers that some command leaves unspecified (R39, R66, R213, R230). -/
inductive FreeSlot where
  | cur | lim | x0 | dataSend
  | seq | peerCid | peerPort | unicast | action | hasTlv | tlvType | tlvId | data | errId | errMid | displayLen
deriving DecidableEq, Repr

namespace Config

/-- The parameters of this machine: not known, so nothing can be proved of their values but what holds of every `Impl`.
Log entry 2. -/
opaque impl : Impl

/-- The value an unspecified register takes, for the count of draws so far and the register. A free value: nothing
constrains it. Log entry 5. -/
opaque freeWord : Nat → FreeSlot → BitVec 64

/-- The value an unspecified octet of a memory takes, for the count of draws so far, the space and the offset. A free
value: nothing constrains it. Log entry 5. -/
opaque freeOctet : Nat → Space → Nat → BitVec 8

/-- What an octet that nothing has written reads as. The spec calls it unspecified after reset (R69).
DESIGN CHOICE, unsafe: log entry 4. -/
def unlistedOctet : Octet := 0

end Config

end Sys2Proof
end

