-- ==== Sys2Proof/Machine/Layout.lean ====
section
/-! DEFINITION. The offsets and constants of a management message that the source gives (30_encoding.md R113 to R126). The
offsets inside the PTP header are parameters, `HeaderLayout` in Config.lean (00_scope.md R8). -/

namespace Sys2Proof.Machine

/-- `MIN_PARSE_LEN` (R8, R235). -/
def minParseLen : Nat := 44

/-- The PTP header and the management header together (R121). -/
def headersLen : Nat := 48

/-- The action octet of the management header (R121). -/
def offAction : Nat := 46

/-- `OFF_TLV`: `tlvType` (R8, R123). -/
def offTlv : Nat := 48

/-- `lengthField` (R123). -/
def offTlvLen : Nat := 50

/-- The first octet after `lengthField` (R123). -/
def offTlvBody : Nat := 52

/-- The dataField of a MANAGEMENT TLV (R123). -/
def offData : Nat := 54

/-- messageType, the low nibble of octet 0 (R114). -/
def messageType : BitVec 4 := 0xD

/-- versionPTP, the low nibble of octet 1 (R115). -/
def versionPtp : BitVec 4 := 2

/-- controlField (R119). -/
def controlField : Octet := 0x04

/-- logMessageInterval (R119). -/
def logMessageInterval : Octet := 0x7F

/-- `tlvType` MANAGEMENT (R140). -/
def tlvManagement : BitVec 16 := 0x0001

/-- `tlvType` MANAGEMENT_ERROR_STATUS (R140). -/
def tlvErrorStatus : BitVec 16 := 0x0002

/-- `actionField_e` (R138). -/
def actGet : BitVec 4 := 0

/-- `actionField_e` (R138). -/
def actSet : BitVec 4 := 1

/-- `actionField_e` (R138). -/
def actResponse : BitVec 4 := 2

/-- `actionField_e` (R138). -/
def actCommand : BitVec 4 := 3

/-- `actionField_e` (R138). -/
def actAcknowledge : BitVec 4 := 4

/-- `managementErrorId_e` (R139): RESPONSE_TOO_BIG to NOT_SUPPORTED, and GENERAL_ERROR. -/
def managementErrorIds : List (BitVec 16) := [1, 2, 3, 4, 5, 6, 0xFFFE]

end Sys2Proof.Machine
end

