-- ==== Sys2Proof/Machine/Bytes.lean ====
section
/-! DEFINITION. Byte order and sign: the maps between integers and octet strings (00_scope.md R13, R14; 20_memory.md R74,
R75). -/

namespace Sys2Proof.Machine

/-- `be_N`: the big-endian value of a string of octets, the lowest offset most significant (R14). -/
def beNat : List Octet → Nat
  | [] => 0
  | o :: os => o.toNat * 256 ^ os.length + beNat os

/-- `le_64`: the little-endian value of a string of octets, the lowest offset least significant (R14). -/
def leNat : List Octet → Nat
  | [] => 0
  | o :: os => o.toNat + 256 * leNat os

/-- `bytes_be_N` of `trunc_N v`, with `k = N/8` octets: most significant first (R14, R156). -/
def bytesBE : Nat → Word64 → List Octet
  | 0, _ => []
  | k + 1, v => (v >>> (8 * k)).setWidth 8 :: bytesBE k v

/-- `bytes_le_64` cut to `k` octets: least significant first (R14). -/
def bytesLE : Nat → Word64 → List Octet
  | 0, _ => []
  | k + 1, v => v.setWidth 8 :: bytesLE k (v >>> 8)

/-- `sext_64` of the `n`-bit pattern of `u` (R13, R153). -/
def signExtended (n u : Nat) : Word64 := (BitVec.ofNat n u).signExtend 64

end Sys2Proof.Machine
end

