-- ==== Sys2Proof/Syntax.lean ====
section
/-! DEFINITION. The commands of MTFE, one constructor per row of spec/opcode_table.json (30_encoding.md R103). -/

namespace Sys2Proof

/-- A command with its immediate operands. Every other operand is in `x[0..7]` (R100). The fields have exactly the widths
of the word's fields (R101, R102), so every term is well formed; what can be ill formed is a word (WellFormed.lean). -/
inductive Instr where
  -- cursor commands, 40_primitive_codec.md R158 to R160
  | openRd
  | openWr
  | close
  -- integer reads, R161 to R171
  | rdU8
  | rdU16
  | rdU32
  | rdU48
  | rdU64
  | rdI8
  | rdI16
  | rdI32
  | rdI48
  | rdI64
  | rdU64le
  -- integer writes, R172 to R182
  | wrU8
  | wrU16
  | wrU32
  | wrU48
  | wrU64
  | wrI8
  | wrI16
  | wrI32
  | wrI48
  | wrI64
  | wrU64le
  -- compound codec, 41_compound_codec.md R192 to R197
  | rdTimestamp
  | rdClockid
  | rdPortid
  | wrTimestamp
  | wrClockid
  | wrPortid
  -- frame engine, 42_frame_engine.md R210 to R213, R220, R231, R233
  | updateParams
  | setAllPorts
  | isAllPorts
  /-- `v` is `V = w[20]`, `act = w[19:16]`, `id = w[15:0]` (R102). -/
  | setAction (v : Bool) (act : BitVec 4) (id : BitVec 16)
  /-- `seq = w[15:0]` (R102). -/
  | build (seq : BitVec 16)
  /-- `seq = w[15:0]` (R102). -/
  | buildCap (seq : BitVec 16)
  | parse
deriving DecidableEq, Repr

end Sys2Proof
end

