-- ==== Sys2Proof/Machine/State.lean ====
section
/-! DEFINITION. The whole state of one MTFE instance (10_state.md R30), the host steps still to come, and the state after
reset (R69). Plain data throughout. -/

namespace Sys2Proof.Machine

/-- The twelve return codes (60_exceptions.md R280), held by `ST` and `R_PERR`. Their numbers are `Code.number`
(Flags.lean). The values 12 to 15 of the 4-bit registers never occur, so they have no constructor (DEDUCED, log entry
11). -/
inductive Code where
  | ok
  | msg
  | invalidId
  | invalidTlv
  | sizeMiss
  | tooSmall
  | size
  | val
  | header
  | action
  | unsupport
  | mem
deriving DecidableEq, Repr

/-- `DIR` (R35): no window, a parse window on `RX`, a build window on `TX`. The value 3 never occurs (DEDUCED,
log entry 11). -/
inductive Dir where
  | idle
  | parse
  | build
deriving DecidableEq, Repr

/-- A memory as the cells that differ from `Config.unlistedOctet`, at strictly rising offsets (`Memory.wf`, Ops.lean). -/
abbrev Memory := List Host.Cell

/-- The general registers `x[0]` to `x[7]`, 64 bits each, all alike (R31). -/
structure XRegs where
  x0 : Word64
  x1 : Word64
  x2 : Word64
  x3 : Word64
  x4 : Word64
  x5 : Word64
  x6 : Word64
  x7 : Word64
deriving DecidableEq, Repr

/-- The parameter registers (R41 to R48). `PV` stands beside them in `State`. -/
structure ParamRegs where
  /-- `P_TS`, transportSpecific (R41). -/
  ts : BitVec 4
  /-- `P_DOMAIN` (R42). -/
  domain : BitVec 8
  /-- `P_HOPS` (R43). -/
  hops : BitVec 8
  /-- `P_UNICAST` (R44). -/
  unicast : Bool
  /-- `P_LINUXPTP` (R45). -/
  linuxptp : Bool
  /-- `P_RESPONDER` (R46). -/
  responder : Bool
  /-- `P_SELF` (R47). -/
  selfId : PortIdentity
  /-- `P_TARGET` (R48). -/
  target : PortIdentity
deriving DecidableEq, Repr

/-- The action registers (R51 to R54). `AV` stands beside them in `State`. -/
structure ActionRegs where
  /-- `A_ACTION` (R51). -/
  action : BitVec 4
  /-- `A_ID` (R52). -/
  id : BitVec 16
  /-- `A_DS_VALID` (R53). -/
  dsValid : Bool
  /-- `A_DATASEND` (R54). -/
  dataSend : Val
deriving DecidableEq, Repr

/-- The parse-result registers (R56 to R65). -/
structure ResultRegs where
  /-- `R_PERR` (R56). -/
  perr : Code
  /-- `R_SEQ` (R57). -/
  seq : BitVec 16
  /-- `R_PEER` (R58). -/
  peer : PortIdentity
  /-- `R_UNICAST` (R59). -/
  unicast : Bool
  /-- `R_ACTION` (R60). -/
  action : BitVec 4
  /-- `R_HASTLV` (R61). -/
  hasTlv : Bool
  /-- `R_TLVTYPE` (R61). -/
  tlvType : BitVec 16
  /-- `R_TLVID_VALID` (R62). -/
  tlvIdValid : Bool
  /-- `R_TLVID` (R62). -/
  tlvId : BitVec 16
  /-- `R_DATA_VALID` (R63). -/
  dataValid : Bool
  /-- `R_DATA` (R63). -/
  data : Val
  /-- `R_ERRID` (R64). -/
  errId : BitVec 16
  /-- `R_ERRMID` (R64). -/
  errMid : BitVec 16
  /-- `R_DISPLAY_LEN` (R65). -/
  displayLen : BitVec 8
deriving DecidableEq, Repr

/-- One step of the host (00_scope.md R4): it issues a command, or between commands reads or writes through the register
port (R67), writes an octet of `RX`, or reads an octet of a memory (20_memory.md R73). -/
inductive HostStep where
  | command (w : CommandWord)
  | readRegister (number : BitVec 8)
  | writeRegister (number : BitVec 8) (value : Word64)
  | writeRx (offset : Nat) (o : Octet)
  | readOctet (space : Space) (offset : Nat)
deriving DecidableEq, Repr

/-- The state of one instance (R30). The last three fields are the model's own. -/
structure State where
  /-- `x[0..7]` (R31). -/
  x : XRegs
  /-- `ST`, the code of the last completed command (R33). -/
  st : Code
  /-- `DIR` (R35). -/
  dir : Dir
  /-- `CUR` (R36). -/
  cur : BitVec 32
  /-- `LIM` (R37). -/
  lim : BitVec 32
  /-- `PV`, parameters valid (R40). -/
  pv : Bool
  /-- `P_*` (R41 to R48). -/
  par : ParamRegs
  /-- `AV`, action valid (R50). -/
  av : Bool
  /-- `A_*` (R51 to R54). -/
  act : ActionRegs
  /-- `R_*` (R56 to R65). -/
  res : ResultRegs
  /-- `RX`, the receive buffer (R70). -/
  rx : Memory
  /-- `TX`, the send buffer (R71). -/
  tx : Memory
  /-- `DISP`, the display text (R72). -/
  disp : Memory
  /-- MODEL: the host steps still to come, the next one first. The command stream is the host's (R68). Log entry 1. -/
  host : List HostStep
  /-- MODEL: the 64 bits the last port or memory read gave the host (R67). Log entry 1. -/
  portOut : Word64
  /-- MODEL: how many times free values have been drawn. Log entry 5. -/
  draws : Nat
deriving DecidableEq, Repr

/-- Why the machine stops with a fault. -/
inductive Fault where
  /-- A host access names an offset its memory does not have. Raised by the host port's `writeRx` and `readOctet` only.
  Safe: the spec gives such an offset no octet (R70 to R72), and the model stops (DESIGN CHOICE, log entry 8). No
  command raises it. -/
  | noSuchOctet (space : Space) (offset : Nat)
deriving DecidableEq, Repr

/-- Why a step has no meaning: the refusals of 60_exceptions.md R295. All are the spec's own, and safe: the model stops
where the spec defines no state change (00_scope.md R7). -/
inductive Refusal where
  /-- Raised by an arm of `exec` whose instruction is not modelled; no arm is left in that state. Safe. -/
  | notModelled (mnemonic : String)
  /-- The word's opcode is not in the opcode map (30_encoding.md R104). Raised by the step. Safe. -/
  | unassignedOpcode
  /-- A must-be-zero bit of the word is set (R104). Raised by the step. Safe. -/
  | nonzeroReserved
  /-- A read command while `DIR != PARSE`, or a write command while `DIR != BUILD` (R157). Raised by every `RD_*` and
  `WR_*`. Safe. -/
  | wrongDirection
  /-- The window would reach beyond its buffer (R158, R159). Raised by OPEN_RD and OPEN_WR. Safe. -/
  | windowOutsideBuffer
  /-- `PV = 0` (R40). Raised by SET_ALL_PORTS, IS_ALL_PORTS, SET_ACTION, BUILD, BUILD_CAP and PARSE. Safe. -/
  | parametersNotValid
  /-- `AV = 0` (R221). Raised by BUILD and BUILD_CAP. Safe. -/
  | actionNotValid
  /-- The length operand exceeds the buffer (R231, R234). Raised by BUILD_CAP and PARSE. Safe. -/
  | lengthBeyondBuffer
  /-- A port read of a number the register map does not have (R67). Raised by the host port. Safe. -/
  | unmappedRegister
  /-- A port write of a number above 0x07 (R67). Raised by the host port. Safe. -/
  | registerNotWritable
deriving DecidableEq, Repr

/-- Right after reset (R69, R320, R321): `ST`, `R_PERR` are `OK`, `DIR` is IDLE, `PV`, `AV` and the three result valid
bits are 0. Every other register holds zero and no octet is listed, which the spec leaves unspecified.
DESIGN CHOICE, unsafe: log entries 3 and 4. -/
def State.reset : State where
  x := ⟨0, 0, 0, 0, 0, 0, 0, 0⟩
  st := .ok
  dir := .idle
  cur := 0
  lim := 0
  pv := false
  par := { ts := 0, domain := 0, hops := 0, unicast := false, linuxptp := false, responder := false,
           selfId := ⟨0, 0⟩, target := ⟨0, 0⟩ }
  av := false
  act := { action := 0, id := 0, dsValid := false, dataSend := 0 }
  res := { perr := .ok, seq := 0, peer := ⟨0, 0⟩, unicast := false, action := 0, hasTlv := false, tlvType := 0,
           tlvIdValid := false, tlvId := 0, dataValid := false, data := 0, errId := 0, errMid := 0, displayLen := 0 }
  rx := []
  tx := []
  disp := []
  host := []
  portOut := 0
  draws := 0

end Sys2Proof.Machine
end

