-- ==== Sys2Proof/Machine/Update.lean ====
section
/-! DEFINITION. The named reads and writes of the state: every command changes State through these. -/

namespace Sys2Proof.Machine

/-- The outcome of a command or a host step. -/
abbrev Result := Host.Outcome State Fault Refusal

/-- Read `x[i]` (R31). -/
def XRegs.get (r : XRegs) (i : Fin 8) : Word64 :=
  match i with
  | 0 => r.x0
  | 1 => r.x1
  | 2 => r.x2
  | 3 => r.x3
  | 4 => r.x4
  | 5 => r.x5
  | 6 => r.x6
  | 7 => r.x7

/-- Write `x[i]`; every register is an ordinary one (R31). -/
def XRegs.set (r : XRegs) (i : Fin 8) (v : Word64) : XRegs :=
  match i with
  | 0 => { r with x0 := v }
  | 1 => { r with x1 := v }
  | 2 => { r with x2 := v }
  | 3 => { r with x3 := v }
  | 4 => { r with x4 := v }
  | 5 => { r with x5 := v }
  | 6 => { r with x6 := v }
  | 7 => { r with x7 := v }

/-- `x[i]` (R15). -/
def State.readX (s : State) (i : Fin 8) : Word64 := s.x.get i

/-- `x[i] <- v` (R15). -/
def State.writeX (s : State) (i : Fin 8) (v : Word64) : State := { s with x := s.x.set i v }

/-- `ST <- c` (R33). -/
def State.withStatus (s : State) (c : Code) : State := { s with st := c }

/-- `DIR <- d` (R35). -/
def State.withDir (s : State) (d : Dir) : State := { s with dir := d }

/-- `CUR <- a` (R36). -/
def State.withCur (s : State) (a : BitVec 32) : State := { s with cur := a }

/-- `LIM <- a` (R37). -/
def State.withLim (s : State) (a : BitVec 32) : State := { s with lim := a }

/-- `PV <- 1` and all the parameter registers together (R49). -/
def State.withParams (s : State) (r : ParamRegs) : State := { s with pv := true, par := r }

/-- `P_TARGET <- t` (R49). -/
def State.withTarget (s : State) (t : PortIdentity) : State := { s with par := { s.par with target := t } }

/-- `AV <- 1` and all the action registers together (R50, R213). -/
def State.withAction (s : State) (r : ActionRegs) : State := { s with av := true, act := r }

/-- The parse-result registers (R56 to R65). -/
def State.withResults (s : State) (r : ResultRegs) : State := { s with res := r }

/-- The contents of `RX`. -/
def State.withRx (s : State) (m : Memory) : State := { s with rx := m }

/-- The contents of `TX`. -/
def State.withTx (s : State) (m : Memory) : State := { s with tx := m }

/-- The contents of `DISP`. -/
def State.withDisp (s : State) (m : Memory) : State := { s with disp := m }

/-- MODEL: the host steps still to come. -/
def State.withHost (s : State) (h : List HostStep) : State := { s with host := h }

/-- MODEL: what the host read last. -/
def State.withPortOut (s : State) (v : Word64) : State := { s with portOut := v }

/-- MODEL: one more draw of free values (log entry 5). -/
def State.withDraw (s : State) : State := { s with draws := s.draws + 1 }

end Sys2Proof.Machine
end

