-- ==== Sys2Proof/Machine/Flags.lean ====
section
/-! DEFINITION. The flag-like state: the numbers of the return codes, the processor's codes, boolean results and the range
tests of the 48-bit writes (60_exceptions.md R280; 10_state.md R32, R35; 40_primitive_codec.md R175, R180). -/

namespace Sys2Proof.Machine

/-- The number of a code in the 4-bit registers `ST` and `R_PERR` (R280). -/
def Code.number : Code → BitVec 4
  | .ok => 0
  | .msg => 1
  | .invalidId => 2
  | .invalidTlv => 3
  | .sizeMiss => 4
  | .tooSmall => 5
  | .size => 6
  | .val => 7
  | .header => 8
  | .action => 9
  | .unsupport => 10
  | .mem => 11

/-- The code an answer of `PROC` becomes, passed through unchanged (R264, R266, D28). -/
def codeOfProcError : ProcError → Code
  | .tooSmall => .tooSmall
  | .val => .val
  | .sizeMiss => .sizeMiss
  | .mem => .mem

/-- The value of the 2-bit register `DIR` (R35). -/
def Dir.number : Dir → BitVec 2
  | .idle => 0
  | .parse => 1
  | .build => 2

/-- A boolean as a register value: 1 or 0 (R32). -/
def boolWord (b : Bool) : Word64 := if b then 1 else 0

/-- `v < 2^48`, the range of a 48-bit unsigned value (R175, R193). -/
def fitsU48 (v : Word64) : Bool := v.toNat < 2 ^ 48

/-- `sext_64(v[47:0]) = v`, the range of a 48-bit signed value (R180). -/
def fitsI48 (v : Word64) : Bool := (v.setWidth 48).signExtend 64 == v

end Sys2Proof.Machine
end

