-- ==== Sys2Proof/Machine/Ops.lean ====
section
/-! DEFINITION. The shared operations: memory, free values, the cursor operations of 40_primitive_codec.md R150 to R156,
and ending a command with a code (00_scope.md R17; 60_exceptions.md R301), the block's only form of an exception. There is
no return from one (R304): the next command starts in the state the last one left. -/

namespace Sys2Proof.Machine

/-! ### Memory (20_memory.md) -/

/-- The octet at an offset; an unlisted one reads as `Config.unlistedOctet`. -/
def Memory.read : Memory → Nat → Octet
  | [], _ => Config.unlistedOctet
  | (b, o) :: m, a => if a = b then o else Memory.read m a

/-- Put a cell before the first one of a higher offset. -/
def Memory.insertCell (a : Nat) (o : Octet) : Memory → Memory
  | [] => [(a, o)]
  | (b, p) :: m => if a < b then (a, o) :: (b, p) :: m else (b, p) :: Memory.insertCell a o m

/-- Take an offset out of the list, so that it reads as `Config.unlistedOctet`. -/
def Memory.erase (m : Memory) (a : Nat) : Memory := List.filter (fun c => c.1 != a) m

/-- Store one octet and keep the canonical form: writing `Config.unlistedOctet` leaves no entry. -/
def Memory.write (m : Memory) (a : Nat) (o : Octet) : Memory :=
  if o = Config.unlistedOctet then m.erase a else Memory.insertCell a o (m.erase a)

/-- `MemRead(S, a, n)` (R16): the octets at `a` to `a + n - 1`. -/
def Memory.readBytes (m : Memory) : Nat → Nat → List Octet
  | _, 0 => []
  | a, n + 1 => m.read a :: Memory.readBytes m (a + 1) n

/-- `MemWrite(S, a, n, o)` (R16): store a string of octets from offset `a` on. -/
def Memory.writeBytes : Memory → Nat → List Octet → Memory
  | m, _, [] => m
  | m, a, o :: os => Memory.writeBytes (m.write a o) (a + 1) os

/-- The memory that holds a string of octets from offset `a` on and nothing else. -/
def Memory.ofOctets : Nat → List Octet → Memory
  | _, [] => []
  | a, o :: os => if o = Config.unlistedOctet then Memory.ofOctets (a + 1) os else (a, o) :: Memory.ofOctets (a + 1) os

/-- The canonical form from an offset on: offsets strictly rising, no entry equal to what an unlisted offset reads as. -/
def Memory.wfFrom : Nat → Memory → Bool
  | _, [] => true
  | lo, (b, o) :: m => decide (lo ≤ b) && o != Config.unlistedOctet && Memory.wfFrom (b + 1) m

/-- The canonical form of a memory. -/
def Memory.wf (m : Memory) : Bool := Memory.wfFrom 0 m

/-- Every listed offset is one of the memory's `size` octets (R82). -/
def Memory.within (size : Nat) (m : Memory) : Bool := m.all fun c => decide (c.1 < size)

/-- The number of octets of a space (R70, R71, R72). -/
def spaceSize (c : Impl) : Space → Nat
  | .rx => c.rxSize
  | .tx => c.txSize
  | .disp => 255

/-- The contents of a space. -/
def State.space (s : State) : Space → Memory
  | .rx => s.rx
  | .tx => s.tx
  | .disp => s.disp

/-! ### Free values (93_implementation_defined.md, treatment `any value`) -/

/-- The free value of a register at this draw, cut to its width. -/
def State.free (s : State) (slot : FreeSlot) (w : Nat) : BitVec w := (Config.freeWord s.draws slot).setWidth w

/-- The free value of a 1-bit register at this draw. -/
def State.freeBit (s : State) (slot : FreeSlot) : Bool := (Config.freeWord s.draws slot).getLsbD 0

/-- The free octets of a space at offsets `a` to `a + n - 1` at draw `k`. -/
def freeOctets (k : Nat) (sp : Space) : Nat → Nat → List Octet
  | _, 0 => []
  | a, n + 1 => Config.freeOctet k sp a :: freeOctets k sp (a + 1) n

/-! ### Ending a command -/

/-- `return E` of a command that answers through `ST` alone: what was written before stays, `ST <- E`, and nothing else
changes (R17, R301). -/
def complete (c : Code) (s : State) : Result := .next (s.withStatus c)

/-- A command that returns a boolean completes with `ST = OK` and the boolean in `x[0]` (R32, R33). -/
def completeBool (b : Bool) (s : State) : Result := complete .ok (s.writeX 0 (boolWord b))

/-! ### Cursor operations -/

/-- `DIR`, `CUR` and `LIM` of a newly opened window; an open one is replaced (R158, R159). -/
def openWindow (d : Dir) (base limit : Nat) (s : State) : State :=
  ((s.withDir d).withCur (BitVec.ofNat 32 base)).withLim (BitVec.ofNat 32 limit)

/-- `Left()` (R150). It is zero where `CUR` is above `LIM`, which R38 rules out (DEDUCED, log entry 12). -/
def left (s : State) : Nat := s.lim.toNat - s.cur.toNat

/-- `CUR <- CUR + k` (R36). -/
def advance (k : Nat) (s : State) : State := s.withCur (s.cur + BitVec.ofNat 32 k)

/-- `RdBlock(k)` (R151). -/
def rdBlock (k : Nat) (s : State) : Except Code (List Octet × State) :=
  if left s < k then .error .tooSmall else .ok (s.rx.readBytes s.cur.toNat k, advance k s)

/-- `RdBE(N)` (R152), its answer zero-extended to 64 bits. -/
def rdBE (n : Nat) (s : State) : Except Code (Word64 × State) :=
  match rdBlock (n / 8) s with
  | .error e => .error e
  | .ok (o, t) => .ok (BitVec.ofNat 64 (beNat o), t)

/-- `RdI(N)` (R153). -/
def rdI (n : Nat) (s : State) : Except Code (Word64 × State) :=
  match rdBlock (n / 8) s with
  | .error e => .error e
  | .ok (o, t) => .ok (signExtended n (beNat o), t)

/-- `RdLE64()` (R154). -/
def rdLE64 (s : State) : Except Code (Word64 × State) :=
  match rdBlock 8 s with
  | .error e => .error e
  | .ok (o, t) => .ok (BitVec.ofNat 64 (leNat o), t)

/-- `WrBlock(k, o)` with `k` the number of octets of `o` (R155). -/
def wrBlock (o : List Octet) (s : State) : Except Code State :=
  if left s < o.length then .error .tooSmall
  else .ok (advance o.length (s.withTx (s.tx.writeBytes s.cur.toNat o)))

/-- `WrBE(N, v)` (R156). -/
def wrBE (n : Nat) (v : Word64) (s : State) : Except Code State := wrBlock (bytesBE (n / 8) v) s

/-- `WrLE64(v)` (R156). -/
def wrLE64 (v : Word64) (s : State) : Except Code State := wrBlock (bytesLE 8 v) s

/-- A sequence of `WrBlock`s, stopped by the first that answers an error (R20, R227). -/
def wrFields : List (List Octet) → State → Except Code State
  | [], s => .ok s
  | o :: os, s =>
    match wrBlock o s with
    | .error e => .error e
    | .ok t => wrFields os t

/-- The frame a read command runs in: refused outside parse mode (R157), else its body. -/
def whileParsing (body : State → Result) (s : State) : Result :=
  if s.dir = .parse then body s else .refused .wrongDirection

/-- The frame a write command runs in: refused outside build mode (R157), else its body. -/
def whileBuilding (body : State → Result) (s : State) : Result :=
  if s.dir = .build then body s else .refused .wrongDirection

/-- The frame of the commands that need parameters: refused while `PV = 0` (R40). -/
def withParameters (body : State → Result) (s : State) : Result :=
  if s.pv = true then body s else .refused .parametersNotValid

/-- A read command of one primitive: the value in `x[0]`, or the error with nothing changed but `ST` (R161 to R171, R186). -/
def readInteger (rd : State → Except Code (Word64 × State)) : State → Result :=
  whileParsing fun s =>
    match rd s with
    | .error e => complete e s
    | .ok (v, t) => complete .ok (t.writeX 0 v)

/-- A write command of one primitive, of `x[0]`, after its range check where it has one (R172 to R182, R186). -/
def writeInteger (inRange : Word64 → Bool) (wr : Word64 → State → Except Code State) : State → Result :=
  whileBuilding fun s =>
    if inRange (s.readX 0) then
      match wr (s.readX 0) s with
      | .error e => complete e s
      | .ok t => complete .ok t
    else complete .val s

/-- No range check (R156). -/
def anyValue (_ : Word64) : Bool := true

/-- `DIR <- IDLE` with `CUR` and `LIM` unspecified, the end of PARSE, BUILD and BUILD_CAP (R39). Log entry 5. -/
def closeTakenWindow (s : State) : State :=
  ((s.withDir .idle).withCur (s.free .cur 32)).withLim (s.free .lim 32)

end Sys2Proof.Machine
end

