-- ==== Sys2Proof/Machine/Operands.lean ====
section
/-! DEFINITION. The operand forms: how each command reads `x[0..6]`, and the register images of the compound types
(10_state.md R32; 41_compound_codec.md R191; 42_frame_engine.md R210). -/

namespace Sys2Proof.Machine

/-- `x[0]` as a full 64-bit unsigned value: base offset, capacity or message length (R158, R159, R231, R233). -/
def operand0 (s : State) : Nat := (s.readX 0).toNat

/-- `x[1]` as a full 64-bit unsigned value: window length (R158, R159). -/
def operand1 (s : State) : Nat := (s.readX 1).toNat

/-- The eight octets of a ClockIdentity register image, octet 0 from bits 63:56 (R191). -/
def clockIdOctets (cid : Word64) : List Octet := bytesBE 8 cid

/-- The ten octets of a PortIdentity (R131). -/
def portIdFields (p : PortIdentity) : List (List Octet) := [clockIdOctets p.cid, bytesBE 2 (p.port.setWidth 64)]

/-- The PortIdentity that denotes all ports (R48, R131). -/
def allPorts : PortIdentity := ⟨0xFFFFFFFFFFFFFFFF, 0xFFFF⟩

/-- The parameter set in `x[0..6]` (R210). -/
def paramOperands (s : State) : ParamRegs where
  domain := (s.readX 0).setWidth 8
  hops := (s.readX 1).setWidth 8
  unicast := (s.readX 2).getLsbD 0
  linuxptp := (s.readX 2).getLsbD 1
  responder := (s.readX 2).getLsbD 2
  ts := (s.readX 2).extractLsb' 4 4
  selfId := ⟨s.readX 3, (s.readX 4).setWidth 16⟩
  target := ⟨s.readX 5, (s.readX 6).setWidth 16⟩

/-- UPDATE_PARAMS succeeds unless `domainNumber` or `boundaryHops` exceed 255 (R210). -/
def paramsInRange (s : State) : Bool := operand0 s ≤ 255 && operand1 s ≤ 255

/-- A 16-bit big-endian field of a memory (R74). -/
def Memory.be16 (m : Memory) (a : Nat) : BitVec 16 := BitVec.ofNat 16 (beNat (m.readBytes a 2))

/-- A 64-bit big-endian field of a memory (R74, R191). -/
def Memory.be64 (m : Memory) (a : Nat) : BitVec 64 := BitVec.ofNat 64 (beNat (m.readBytes a 8))

/-- `evenup(k)` (R201). -/
def evenup (k : Nat) : Nat := k + k % 2

end Sys2Proof.Machine
end

