-- ==== Sys2Proof/Machine/System.lean ====
section
/-! DEFINITION. The registry predicates and the system commands (42_frame_engine.md R200 to R213). -/

namespace Sys2Proof.Machine

/-! ### Predicates over the registry -/

/-- `gated(row)`: linuxptp-only and not opted in (R201). -/
def gated (par : ParamRegs) (row : Row) : Bool := row.linuxptpOnly && !par.linuxptp

/-- `allowedAction(row, act)`, RESPONSE and ACKNOWLEDGE through the mirrored request (R202). -/
def allowedAction (row : Row) (act : BitVec 4) : Bool :=
  if act = actGet then row.allowGet
  else if act = actSet then row.allowSet
  else if act = actResponse then row.allowGet || row.allowSet
  else if act = actCommand then row.allowCommand
  else if act = actAcknowledge then row.allowCommand
  else false

/-- `checkReplyAction(act)`, the role check of PARSE (R203). -/
def checkReplyAction (c : Impl) (par : ParamRegs) (act : BitVec 4) : Bool :=
  if act = actGet then par.responder && c.acceptGetAsResponder
  else if act = actSet then par.responder
  else if act = actResponse then true
  else if act = actCommand then par.responder
  else if act = actAcknowledge then true
  else false

/-- `isEmpty(id)` (R204). No command branches on it. -/
def isEmptyId (c : Impl) (id : BitVec 16) : Bool :=
  match c.reg id with
  | some row => row.size == .fixed 0
  | none => false

/-- SET_ACTION's validation of an action against the registry (R213). -/
def actionAccepted (c : Impl) (par : ParamRegs) (act : BitVec 4) (id : BitVec 16) : Bool :=
  match c.reg id with
  | some row => decide (act.toNat ≤ 4) && !gated par row && row.size != .unsupported && allowedAction row act
  | none => false

/-! ### Commands -/

/-- UPDATE_PARAMS (R210): all parameter registers together, or none. Legal in any state. -/
def execUpdateParams (s : State) : Result :=
  if paramsInRange s then completeBool true (s.withParams (paramOperands s)) else completeBool false s

/-- SET_ALL_PORTS (R211). -/
def execSetAllPorts (s : State) : Result :=
  withParameters (fun s => complete .ok (s.withTarget allPorts)) s

/-- IS_ALL_PORTS (R212). -/
def execIsAllPorts (s : State) : Result :=
  withParameters (fun s => completeBool (s.par.target == allPorts) s) s

/-- The action registers an accepted SET_ACTION writes (R213). With `A_DS_VALID = 0` the register `A_DATASEND` is
unspecified: a free value (U17, log entry 5). -/
def acceptedAction (v : Bool) (act : BitVec 4) (id : BitVec 16) (s : State) : ActionRegs :=
  let ds := v && act != actGet
  { action := act, id := id, dsValid := ds, dataSend := if ds then s.readX 0 else s.free .dataSend 64 }

/-- SET_ACTION over the parameters `c` (R213). -/
def setActionWith (c : Impl) (v : Bool) (act : BitVec 4) (id : BitVec 16) : State → Result :=
  withParameters fun s =>
    if actionAccepted c s.par act id then
      completeBool true ((s.withAction (acceptedAction v act id s)).withDraw)
    else completeBool false s

/-- SET_ACTION (R213). -/
def execSetAction (v : Bool) (act : BitVec 4) (id : BitVec 16) (s : State) : Result :=
  setActionWith Config.impl v act id s

end Sys2Proof.Machine
end

