-- ==== Sys2Proof/Machine/Build.lean ====
section
/-! DEFINITION. BUILD and BUILD_CAP (42_frame_engine.md R220 to R232). -/

namespace Sys2Proof.Machine

/-- The fields of the PTP header, each with its offset; `messageLength` is back-filled (R113, R223). -/
def headerFields (l : HeaderLayout) (par : ParamRegs) (seq : BitVec 16) : List (Nat × List Octet) :=
  [(l.offTsmt, [(par.ts ++ messageType : Octet)]), (l.offVer, [(0#4 ++ versionPtp : Octet)]), (l.offMsgLen, bytesBE 2 0),
   (l.offDomain, [par.domain]), (l.offFlags, [if par.unicast then l.unicastMask else 0, 0]),
   (l.offSrcPort, (portIdFields par.selfId).flatten), (offSeq, bytesBE 2 (seq.setWidth 64)),
   (l.offControl, [controlField]), (l.offLogInt, [logMessageInterval])]

/-- The octet at offset `j` of fields that share none; zero where no field lies (R120). -/
def octetAt : List (Nat × List Octet) → Nat → Octet
  | [], _ => 0
  | (a, o) :: rest, j => if a ≤ j ∧ j < a + o.length then o.getD (j - a) 0 else octetAt rest j

/-- The PTP header as BUILD writes it, octet by octet from offset 0 on. At the recommended offsets this is the order of
R223 (Laws/Engine.lean, `ptpHeader_recommended`). -/
def ptpHeader (l : HeaderLayout) (par : ParamRegs) (seq : BitVec 16) : List (List Octet) :=
  (List.range ptpHeaderLen).map fun j => [octetAt (headerFields l par seq) j]

/-- The management header (R224). -/
def managementHeaderFields (par : ParamRegs) (act : BitVec 4) : List (List Octet) :=
  portIdFields par.target ++ [[par.hops], [par.hops], [(0#4 ++ act : Octet)], [0]]

/-- The value `PROC.build` is given: the handle where one is attached (R220). -/
def attachedValue (act : ActionRegs) : Option Val := if act.dsValid then some act.dataSend else none

/-- The gate BUILD tests again (R222). By R205 the row exists whenever `AV = 1`; without one
BUILD goes on (DESIGN CHOICE, log entry 10). -/
def buildGated (c : Impl) (s : State) : Bool :=
  match c.reg s.act.id with
  | some row => gated s.par row
  | none => false

/-- The pad octet where the octets after `lengthField` are odd in number (R228). -/
def padIfOdd (lenPos : Nat) (s : State) : Except Code State :=
  if (s.cur.toNat - (lenPos + 2)) % 2 = 1 then wrBE 8 0 s else .ok s

/-- The two back-fills, `lengthField` and `messageLength` (R229). `CUR` does not move. -/
def backfill (l : HeaderLayout) (lenPos : Nat) (s : State) : State :=
  let len := s.cur.toNat - (lenPos + 2)
  let tx := s.tx.writeBytes lenPos (bytesBE 2 (BitVec.ofNat 64 len))
  s.withTx (tx.writeBytes l.offMsgLen (bytesBE 2 (s.cur.setWidth 64)))

/-- The dataField, the pad and the back-fills, with the TLV head already written and `lengthField` at `lenPos`
(R226 to R229). -/
def buildDataField (c : Impl) (lenPos : Nat) (s : State) : Except Code State :=
  match c.procBuild s.act.id s.act.action (attachedValue s.act) with
  | .error e => .error (codeOfProcError e)
  | .ok bytes =>
    match wrFields (bytes.map fun b => [b]) s with
    | .error e => .error e
    | .ok t =>
      match padIfOdd lenPos t with
      | .error e => .error e
      | .ok u => .ok (backfill c.header lenPos u)

/-- The TLV: `tlvType`, a place for `lengthField`, `managementId`, then the dataField (R225). -/
def buildTlv (c : Impl) (s : State) : Except Code State :=
  match wrBE 16 (tlvManagement.setWidth 64) s with
  | .error e => .error e
  | .ok t =>
    match wrFields [bytesBE 2 0, bytesBE 2 (s.act.id.setWidth 64)] t with
    | .error e => .error e
    | .ok u => buildDataField c t.cur.toNat u

/-- Write the message from offset 0 on, with the window open (R222 to R229). On success `CUR` is its length. -/
def buildMessage (c : Impl) (seq : BitVec 16) (s : State) : Except Code State :=
  if buildGated c s then .error .unsupport
  else
    match wrFields (ptpHeader c.header s.par seq ++ managementHeaderFields s.par s.act.action) s with
    | .error e => .error e
    | .ok t => buildTlv c t

/-- The end of a build that returns OK: the length in `x[0]`, the window closed (R230). -/
def buildDone (s : State) : Result :=
  complete .ok (closeTakenWindow (s.writeX 0 (s.cur.setWidth 64))).withDraw

/-- The end of a build that returns an error: `TX` and `x[0]` are unspecified, free values, and nothing else has changed
(R230, U16, log entry 5). -/
def buildFailed (c : Impl) (e : Code) (s : State) : Result :=
  let junk := Memory.ofOctets 0 (freeOctets s.draws .tx 0 c.txSize)
  complete e (closeTakenWindow ((s.withTx junk).writeX 0 (s.free .x0 64))).withDraw

/-- BUILD with the capacity `cap` (R220, R221): the window is opened at offset 0 of `TX`, whatever was open before. -/
def buildInto (c : Impl) (cap : Nat) (seq : BitVec 16) (s : State) : Result :=
  match buildMessage c seq (openWindow .build 0 cap s) with
  | .ok t => buildDone t
  | .error e => buildFailed c e s

/-- The preconditions of BUILD and BUILD_CAP (R221). Which of two refusals is answered is a DESIGN CHOICE that nothing can
observe (log entry 9). -/
def whenBuildable (body : State → Result) : State → Result :=
  withParameters fun s => if s.av = true then body s else .refused .actionNotValid

/-- BUILD over the parameters `c` (R220): the capacity is the whole send buffer. -/
def buildWith (c : Impl) (seq : BitVec 16) (s : State) : Result :=
  whenBuildable (buildInto c c.txSize seq) s

/-- BUILD_CAP over the parameters `c` (R231): the capacity is `x[0]`. -/
def buildCapWith (c : Impl) (seq : BitVec 16) (s : State) : Result :=
  whenBuildable (fun s => if operand0 s ≤ c.txSize then buildInto c (operand0 s) seq s
    else .refused .lengthBeyondBuffer) s

/-- BUILD (R220). -/
def execBuild (seq : BitVec 16) (s : State) : Result := buildWith Config.impl seq s

/-- BUILD_CAP (R231). -/
def execBuildCap (seq : BitVec 16) (s : State) : Result := buildCapWith Config.impl seq s

end Sys2Proof.Machine
end

