-- ==== Sys2Proof/Machine/Compound.lean ====
section
/-! DEFINITION. The compound codec (41_compound_codec.md R190 to R197): a direct sequence of primitives in field order,
stopped by the first that answers an error. Primitives already done keep their effect; result registers are written only
on full success. -/

namespace Sys2Proof.Machine

/-- Two reads in a row, their answers to `x[0]` and `x[1]` (R190, R192, R196). -/
def readPair (rd₀ rd₁ : State → Except Code (Word64 × State)) : State → Result :=
  whileParsing fun s =>
    match rd₀ s with
    | .error e => complete e s
    | .ok (v, t) =>
      match rd₁ t with
      | .error e => complete e t
      | .ok (w, u) => complete .ok ((u.writeX 0 v).writeX 1 w)

/-- Two writes in a row, of `x[0]` and `x[1]`, after the range check of the first (R190, R193, R197). -/
def writePair (inRange : Word64 → Bool) (wr₀ wr₁ : Word64 → State → Except Code State) : State → Result :=
  whileBuilding fun s =>
    if inRange (s.readX 0) then
      match wr₀ (s.readX 0) s with
      | .error e => complete e s
      | .ok t =>
        match wr₁ (s.readX 1) t with
        | .error e => complete e t
        | .ok u => complete .ok u
    else complete .val s

/-- The read of a ClockIdentity, one `RdBlock(8)` in the image of R191. -/
def rdClockIdentity (s : State) : Except Code (Word64 × State) :=
  match rdBlock 8 s with
  | .error e => .error e
  | .ok (o, t) => .ok (BitVec.ofNat 64 (beNat o), t)

/-- The write of a ClockIdentity, one `WrBlock(8, ...)` (R191). -/
def wrClockIdentity (v : Word64) (s : State) : Except Code State := wrBlock (clockIdOctets v) s

/-- RD_TIMESTAMP (R192). -/
def execRdTimestamp (s : State) : Result := readPair (rdBE 48) (rdBE 32) s

/-- RD_CLOCKID (R194). -/
def execRdClockid (s : State) : Result := readInteger rdClockIdentity s

/-- RD_PORTID (R196). -/
def execRdPortid (s : State) : Result := readPair rdClockIdentity (rdBE 16) s

/-- WR_TIMESTAMP, range check first (R193). -/
def execWrTimestamp (s : State) : Result := writePair fitsU48 (wrBE 48) (wrBE 32) s

/-- WR_CLOCKID (R195). -/
def execWrClockid (s : State) : Result := writeInteger anyValue wrClockIdentity s

/-- WR_PORTID (R197). -/
def execWrPortid (s : State) : Result := writePair anyValue wrClockIdentity (wrBE 16) s

end Sys2Proof.Machine
end

