-- ==== Sys2Proof/Machine/Cursor.lean ====
section
/-! DEFINITION. OPEN_RD, OPEN_WR, CLOSE (40_primitive_codec.md R158 to R160). -/

namespace Sys2Proof.Machine

/-- Open a window of a buffer of `size` octets: refused where `x[0] + x[1]` exceeds it (R158, R159, D34). -/
def openWith (size : Nat) (d : Dir) (s : State) : Result :=
  if operand0 s + operand1 s ≤ size then complete .ok (openWindow d (operand0 s) (operand0 s + operand1 s) s)
  else .refused .windowOutsideBuffer

/-- OPEN_RD (R158). -/
def execOpenRd (s : State) : Result := openWith Config.impl.rxSize .parse s

/-- OPEN_WR (R159). -/
def execOpenWr (s : State) : Result := openWith Config.impl.txSize .build s

/-- CLOSE (R160). `CUR` and `LIM` keep their values. -/
def execClose (s : State) : Result := complete .ok (s.withDir .idle)

end Sys2Proof.Machine
end

