-- ==== Sys2Proof/Machine/Parse.lean ====
section
/-! DEFINITION. PARSE (42_frame_engine.md R233 to R251). -/

namespace Sys2Proof.Machine

/-- What the headers of a received message give (R237, R238). -/
structure ParsedHeader where
  seq : BitVec 16
  peer : PortIdentity
  unicast : Bool
  action : BitVec 4
deriving DecidableEq, Repr

/-- How a PARSE ends, with what each end defines (10_state.md R66). -/
inductive ParseEnd where
  /-- Any code but OK and MSG. -/
  | failed (e : Code)
  /-- OK, the frame ends after the management header (R239). -/
  | noTlv (h : ParsedHeader)
  /-- MSG: a MANAGEMENT_ERROR_STATUS TLV with its display text (R240). -/
  | errorStatus (h : ParsedHeader) (errId errMid : BitVec 16) (text : List Octet)
  /-- OK, a GET: the ID, nothing decoded (R245). -/
  | request (h : ParsedHeader) (id : BitVec 16)
  /-- OK, a MANAGEMENT TLV and its decoded value (R247). -/
  | decoded (h : ParsedHeader) (id : BitVec 16) (v : Val)
deriving DecidableEq, Repr

/-- Step 1 (R235, R236): lengths, then constants. None where all pass. -/
def headerError (l : HeaderLayout) (m : Memory) (n : Nat) : Option Code :=
  if n < minParseLen then some .tooSmall
  else if n < (m.be16 l.offMsgLen).toNat then some .tooSmall
  else if (m.be16 l.offMsgLen).toNat < n then some .header
  else if (m.read l.offVer).setWidth 4 ≠ versionPtp then some .header
  else if (m.read l.offTsmt).setWidth 4 ≠ messageType then some .header
  else if m.read l.offControl ≠ controlField then some .header
  else none

/-- Steps 2 and 3 (R237, R238): sequence, peer, unicast flag, action nibble. -/
def readHeader (l : HeaderLayout) (m : Memory) : ParsedHeader where
  seq := m.be16 offSeq
  peer := ⟨m.be64 l.offSrcPort, m.be16 (l.offSrcPort + 8)⟩
  unicast := (m.read l.offFlags &&& l.unicastMask) != 0
  action := (m.read offAction).setWidth 4

/-- Step 3 (R239 (b) to (e)): the TLV head of a message of more than 48 octets. None where all pass. -/
def tlvHeadError (m : Memory) (n : Nat) : Option Code :=
  if n < offTlvBody then some .tooSmall
  else if m.be16 offTlv ≠ tlvManagement ∧ m.be16 offTlv ≠ tlvErrorStatus then some .invalidTlv
  else if (m.be16 offTlvLen).toNat % 2 = 1 then some .size
  else if n - offTlvBody < (m.be16 offTlvLen).toNat then some .invalidTlv
  else none

/-- The display text of an error-status TLV, with the cursor after the reserved word: present iff octets remain (R240). -/
def readDisplayText (s : State) : Except Code (List Octet) :=
  if left s = 0 then .ok []
  else
    match rdBE 8 s with
    | .error e => .error e
    | .ok (len, t) =>
      if left t < len.toNat then .error .sizeMiss else .ok (t.rx.readBytes t.cur.toNat len.toNat)

/-- Step 4 (R240): the body of an error-status TLV, with the window on it. -/
def parseErrorStatus (h : ParsedHeader) (s : State) : ParseEnd :=
  match rdBE 16 s with
  | .error e => .failed e
  | .ok (eid, s₁) =>
    if eid.setWidth 16 ∈ managementErrorIds then
      match rdBE 16 s₁ with
      | .error e => .failed e
      | .ok (emid, s₂) =>
        match rdBE 32 s₂ with
        | .error e => .failed e
        | .ok (_, s₃) =>
          match readDisplayText s₃ with
          | .error e => .failed e
          | .ok text => .errorStatus h (eid.setWidth 16) (emid.setWidth 16) text
    else .failed .val

/-- The fixed-size check: `L - 2 = evenup(size)` where the size is fixed (R246). -/
def sizeMismatch (size : RowSize) (dataLen : Nat) : Bool :=
  match size with
  | .fixed k => dataLen != evenup k
  | .unsupported => false
  | .byValue => false

/-- Steps 5 and 6 after the ID was read (R241 to R247), for the octets of dataField and pad. -/
def parseData (c : Impl) (par : ParamRegs) (h : ParsedHeader) (id : BitVec 16) (octets : List Octet) : ParseEnd :=
  match c.reg id with
  | none => .failed .invalidId
  | some row =>
    if gated par row then .failed .invalidId
    else if !checkReplyAction c par h.action then .failed .action
    else if !allowedAction row h.action then .failed .invalidId
    else if row.size = .unsupported then .failed .unsupport
    else if h.action = actGet then .request h id
    else if sizeMismatch row.size octets.length then .failed .sizeMiss
    else
      match c.procParse id h.action octets with
      | .error e => .failed (codeOfProcError e)
      | .ok v => .decoded h id v

/-- Step 5 (R241): a MANAGEMENT TLV, with the window on its body; the ID is read through the cursor. -/
def parseManagement (c : Impl) (h : ParsedHeader) (len : Nat) (s : State) : ParseEnd :=
  match rdBE 16 s with
  | .error e => .failed e
  | .ok (mid, _) => parseData c s.par h (mid.setWidth 16) (s.rx.readBytes offData (len - 2))

/-- The whole of PARSE's reading of `RX[0 .. n-1]` (R233, R251). -/
def parseMessage (c : Impl) (n : Nat) (s : State) : ParseEnd :=
  match headerError c.header s.rx n with
  | some e => .failed e
  | none =>
    if n < headersLen then .failed .tooSmall
    else if n = headersLen then .noTlv (readHeader c.header s.rx)
    else
      match tlvHeadError s.rx n with
      | some e => .failed e
      | none =>
        let len := (s.rx.be16 offTlvLen).toNat
        let body := openWindow .parse offTlvBody (offTlvBody + len) s
        if s.rx.be16 offTlv = tlvErrorStatus then parseErrorStatus (readHeader c.header s.rx) body
        else parseManagement c (readHeader c.header s.rx) len body

/-- The code PARSE returns (R233). -/
def ParseEnd.code : ParseEnd → Code
  | .failed e => e
  | .noTlv _ => .ok
  | .errorStatus _ _ _ _ => .msg
  | .request _ _ => .ok
  | .decoded _ _ _ => .ok

/-- Result registers of which nothing but the code and the two cleared valid bits is defined: every other register is a
free value (R66, last row; U15, log entry 5). -/
def undefinedResults (e : Code) (s : State) : ResultRegs where
  perr := e
  seq := s.free .seq 16
  peer := ⟨s.free .peerCid 64, s.free .peerPort 16⟩
  unicast := s.freeBit .unicast
  action := s.free .action 4
  hasTlv := s.freeBit .hasTlv
  tlvType := s.free .tlvType 16
  tlvIdValid := false
  tlvId := s.free .tlvId 16
  dataValid := false
  data := s.free .data 64
  errId := s.free .errId 16
  errMid := s.free .errMid 16
  displayLen := s.free .displayLen 8

/-- The registers the headers define, over `undefinedResults` (R66). -/
def headerResults (e : Code) (h : ParsedHeader) (hasTlv : Bool) (s : State) : ResultRegs :=
  { undefinedResults e s with seq := h.seq, peer := h.peer, unicast := h.unicast, action := h.action, hasTlv := hasTlv }

/-- The parse-result registers after PARSE, row by row of the table of R66. -/
def parseResults (p : ParseEnd) (s : State) : ResultRegs :=
  match p with
  | .failed e => undefinedResults e s
  | .noTlv h => headerResults .ok h false s
  | .errorStatus h eid emid text =>
    { headerResults .msg h true s with
      tlvType := tlvErrorStatus, errId := eid, errMid := emid, displayLen := BitVec.ofNat 8 text.length }
  | .request h id => { headerResults .ok h true s with tlvType := tlvManagement, tlvIdValid := true, tlvId := id }
  | .decoded h id v =>
    { headerResults .ok h true s with
      tlvType := tlvManagement, tlvIdValid := true, tlvId := id, dataValid := true, data := v }

/-- The text PARSE leaves in `DISP`: the octets from its length on, and all of `DISP` where it carries none, are
unspecified, free values (R65, R66, log entries 5 and 7). -/
def ParseEnd.text : ParseEnd → List Octet
  | .failed _ => []
  | .noTlv _ => []
  | .errorStatus _ _ _ text => text
  | .request _ _ => []
  | .decoded _ _ _ => []

/-- `DISP` after PARSE. -/
def displayAfter (text : List Octet) (s : State) : Memory :=
  Memory.ofOctets 0 (text ++ freeOctets s.draws .disp text.length (255 - text.length))

/-- The end state of PARSE (R249): `ST` and `R_PERR` take the code, the window is closed. -/
def parseDone (p : ParseEnd) (s : State) : Result :=
  complete p.code
    (closeTakenWindow ((s.withResults (parseResults p s)).withDisp (displayAfter p.text s))).withDraw

/-- PARSE over the parameters `c` (R233, R234). -/
def parseWith (c : Impl) : State → Result :=
  withParameters fun s =>
    if operand0 s ≤ c.rxSize then parseDone (parseMessage c (operand0 s) s) s else .refused .lengthBeyondBuffer

/-- PARSE (R233). -/
def execParse (s : State) : Result := parseWith Config.impl s

end Sys2Proof.Machine
end

