-- ==== Sys2Proof/Machine/Read.lean ====
section
/-! DEFINITION. The integer reads (40_primitive_codec.md R161 to R171). -/

namespace Sys2Proof.Machine

/-- RD_U8 (R161). -/
def execRdU8 (s : State) : Result := readInteger (rdBE 8) s

/-- RD_U16 (R162). -/
def execRdU16 (s : State) : Result := readInteger (rdBE 16) s

/-- RD_U32 (R163). -/
def execRdU32 (s : State) : Result := readInteger (rdBE 32) s

/-- RD_U48 (R164). -/
def execRdU48 (s : State) : Result := readInteger (rdBE 48) s

/-- RD_U64 (R165). -/
def execRdU64 (s : State) : Result := readInteger (rdBE 64) s

/-- RD_I8 (R166). -/
def execRdI8 (s : State) : Result := readInteger (rdI 8) s

/-- RD_I16 (R167). -/
def execRdI16 (s : State) : Result := readInteger (rdI 16) s

/-- RD_I32 (R168). -/
def execRdI32 (s : State) : Result := readInteger (rdI 32) s

/-- RD_I48 (R169). -/
def execRdI48 (s : State) : Result := readInteger (rdI 48) s

/-- RD_I64 (R170). -/
def execRdI64 (s : State) : Result := readInteger (rdI 64) s

/-- RD_U64LE (R171). -/
def execRdU64le (s : State) : Result := readInteger rdLE64 s

end Sys2Proof.Machine
end

