-- ==== Sys2Proof/Machine/Write.lean ====
section
/-! DEFINITION. The integer writes (40_primitive_codec.md R172 to R182). -/

namespace Sys2Proof.Machine

/-- WR_U8 (R172). -/
def execWrU8 (s : State) : Result := writeInteger anyValue (wrBE 8) s

/-- WR_U16 (R173). -/
def execWrU16 (s : State) : Result := writeInteger anyValue (wrBE 16) s

/-- WR_U32 (R174). -/
def execWrU32 (s : State) : Result := writeInteger anyValue (wrBE 32) s

/-- WR_U48, range check first (R175). -/
def execWrU48 (s : State) : Result := writeInteger fitsU48 (wrBE 48) s

/-- WR_U64 (R176). -/
def execWrU64 (s : State) : Result := writeInteger anyValue (wrBE 64) s

/-- WR_I8 (R177). -/
def execWrI8 (s : State) : Result := writeInteger anyValue (wrBE 8) s

/-- WR_I16 (R178). -/
def execWrI16 (s : State) : Result := writeInteger anyValue (wrBE 16) s

/-- WR_I32 (R179). -/
def execWrI32 (s : State) : Result := writeInteger anyValue (wrBE 32) s

/-- WR_I48, range check first (R180). -/
def execWrI48 (s : State) : Result := writeInteger fitsI48 (wrBE 48) s

/-- WR_I64 (R181). -/
def execWrI64 (s : State) : Result := writeInteger anyValue (wrBE 64) s

/-- WR_U64LE (R182). -/
def execWrU64le (s : State) : Result := writeInteger anyValue wrLE64 s

end Sys2Proof.Machine
end

