-- ==== Sys2Proof/Machine/Dispatch.lean ====
section
/-! DEFINITION. One arm per command (30_encoding.md R103). -/

namespace Sys2Proof.Machine

def exec (i : Instr) (s : State) : Host.Outcome State Fault Refusal :=
  match i with
  | .openRd => Sys2Proof.Machine.execOpenRd s
  | .openWr => Sys2Proof.Machine.execOpenWr s
  | .close => Sys2Proof.Machine.execClose s
  | .rdU8 => Sys2Proof.Machine.execRdU8 s
  | .rdU16 => Sys2Proof.Machine.execRdU16 s
  | .rdU32 => Sys2Proof.Machine.execRdU32 s
  | .rdU48 => Sys2Proof.Machine.execRdU48 s
  | .rdU64 => Sys2Proof.Machine.execRdU64 s
  | .rdI8 => Sys2Proof.Machine.execRdI8 s
  | .rdI16 => Sys2Proof.Machine.execRdI16 s
  | .rdI32 => Sys2Proof.Machine.execRdI32 s
  | .rdI48 => Sys2Proof.Machine.execRdI48 s
  | .rdI64 => Sys2Proof.Machine.execRdI64 s
  | .rdU64le => Sys2Proof.Machine.execRdU64le s
  | .wrU8 => Sys2Proof.Machine.execWrU8 s
  | .wrU16 => Sys2Proof.Machine.execWrU16 s
  | .wrU32 => Sys2Proof.Machine.execWrU32 s
  | .wrU48 => Sys2Proof.Machine.execWrU48 s
  | .wrU64 => Sys2Proof.Machine.execWrU64 s
  | .wrI8 => Sys2Proof.Machine.execWrI8 s
  | .wrI16 => Sys2Proof.Machine.execWrI16 s
  | .wrI32 => Sys2Proof.Machine.execWrI32 s
  | .wrI48 => Sys2Proof.Machine.execWrI48 s
  | .wrI64 => Sys2Proof.Machine.execWrI64 s
  | .wrU64le => Sys2Proof.Machine.execWrU64le s
  | .rdTimestamp => Sys2Proof.Machine.execRdTimestamp s
  | .rdClockid => Sys2Proof.Machine.execRdClockid s
  | .rdPortid => Sys2Proof.Machine.execRdPortid s
  | .wrTimestamp => Sys2Proof.Machine.execWrTimestamp s
  | .wrClockid => Sys2Proof.Machine.execWrClockid s
  | .wrPortid => Sys2Proof.Machine.execWrPortid s
  | .updateParams => Sys2Proof.Machine.execUpdateParams s
  | .setAllPorts => Sys2Proof.Machine.execSetAllPorts s
  | .isAllPorts => Sys2Proof.Machine.execIsAllPorts s
  | .setAction v act id => Sys2Proof.Machine.execSetAction v act id s
  | .build seq => Sys2Proof.Machine.execBuild seq s
  | .buildCap seq => Sys2Proof.Machine.execBuildCap seq s
  | .parse => Sys2Proof.Machine.execParse s

end Sys2Proof.Machine
end

