-- ==== Sys2Proof/WellFormed.lean ====
section
/-! DEFINITION. Which command words are well formed: the opcode is one of the map of 30_encoding.md R103 and the
must-be-zero bits of its format (R101) are zero (R104). A term of `Instr` has no check of its own: its fields have the
widths of the word's fields. This check is written from R101 and R103 alone and shares no text with the decoder. -/

namespace Sys2Proof

/-- The three formats of R101. -/
inductive Format where
  | n
  | q
  | s
deriving DecidableEq, Repr

/-- The bits a format requires to be zero (R101): `w[23:0]`, `w[23:16]` or `w[23:21]`. -/
def Format.mustBeZero : Format → CommandWord
  | .n => 0x00FFFFFF
  | .q => 0x00FF0000
  | .s => 0x00E00000

/-- The opcodes of format N (R103). -/
def plainOpcodes : List Nat :=
  [0x01, 0x02, 0x03,
   0x10, 0x11, 0x12, 0x13, 0x14, 0x15, 0x16, 0x17, 0x18, 0x19, 0x1A,
   0x20, 0x21, 0x22, 0x23, 0x24, 0x25, 0x26, 0x27, 0x28, 0x29, 0x2A,
   0x30, 0x31, 0x32, 0x38, 0x39, 0x3A,
   0x40, 0x41, 0x42, 0x4C]

/-- The format of an opcode; none where the opcode map has no row (R103, R104). -/
def formatOf (opcode : Nat) : Option Format :=
  if opcode = 0x43 then some .s
  else if opcode = 0x48 ∨ opcode = 0x49 then some .q
  else if opcode ∈ plainOpcodes then some .n
  else none

/-- The word has an assigned opcode and zeros in its format's must-be-zero bits (R104). -/
def wordWellFormed (w : CommandWord) : Bool :=
  match formatOf (w.toNat / 2 ^ 24) with
  | some f => w &&& f.mustBeZero == 0
  | none => false

end Sys2Proof
end

