-- ==== Sys2Proof/Decode.lean ====
section
/-! DEFINITION. The decoder of the command word (30_encoding.md R100 to R104), total on every 32-bit word and rejecting
by name; then the encoder, from the same tables. -/

namespace Sys2Proof

/-- Why a word is no command (R104). -/
inductive DecodeError where
  /-- The opcode is not in the map of R103. -/
  | unassignedOpcode
  /-- A must-be-zero bit of the format is set (R101). -/
  | nonzeroReserved
deriving DecidableEq, Repr

/-- `w[31:24]` (R100). -/
def opcodeField (w : CommandWord) : BitVec 8 := w.extractLsb' 24 8

/-- Format N: `w[23:0]` must be zero (R101). -/
def decodePlain (w : CommandWord) (i : Instr) : Except DecodeError Instr :=
  if w.extractLsb' 0 24 = 0 then .ok i else .error .nonzeroReserved

/-- Format Q: `w[23:16]` must be zero, `seq = w[15:0]` (R101, R102). -/
def decodeSeq (w : CommandWord) (i : BitVec 16 → Instr) : Except DecodeError Instr :=
  if w.extractLsb' 16 8 = 0 then .ok (i (w.extractLsb' 0 16)) else .error .nonzeroReserved

/-- Format S: `w[23:21]` must be zero, `V = w[20]`, `act = w[19:16]`, `id = w[15:0]` (R101, R102). -/
def decodeAction (w : CommandWord) (i : Bool → BitVec 4 → BitVec 16 → Instr) : Except DecodeError Instr :=
  if w.extractLsb' 21 3 = 0 then .ok (i (w.getLsbD 20) (w.extractLsb' 16 4) (w.extractLsb' 0 16))
  else .error .nonzeroReserved

/-- The instruction a command word stands for (R103), or why it is refused (R104). -/
def decode (w : CommandWord) : Except DecodeError Instr :=
  match (opcodeField w).toNat with
  | 0x01 => decodePlain w .openRd
  | 0x02 => decodePlain w .openWr
  | 0x03 => decodePlain w .close
  | 0x10 => decodePlain w .rdU8
  | 0x11 => decodePlain w .rdU16
  | 0x12 => decodePlain w .rdU32
  | 0x13 => decodePlain w .rdU48
  | 0x14 => decodePlain w .rdU64
  | 0x15 => decodePlain w .rdI8
  | 0x16 => decodePlain w .rdI16
  | 0x17 => decodePlain w .rdI32
  | 0x18 => decodePlain w .rdI48
  | 0x19 => decodePlain w .rdI64
  | 0x1A => decodePlain w .rdU64le
  | 0x20 => decodePlain w .wrU8
  | 0x21 => decodePlain w .wrU16
  | 0x22 => decodePlain w .wrU32
  | 0x23 => decodePlain w .wrU48
  | 0x24 => decodePlain w .wrU64
  | 0x25 => decodePlain w .wrI8
  | 0x26 => decodePlain w .wrI16
  | 0x27 => decodePlain w .wrI32
  | 0x28 => decodePlain w .wrI48
  | 0x29 => decodePlain w .wrI64
  | 0x2A => decodePlain w .wrU64le
  | 0x30 => decodePlain w .rdTimestamp
  | 0x31 => decodePlain w .rdClockid
  | 0x32 => decodePlain w .rdPortid
  | 0x38 => decodePlain w .wrTimestamp
  | 0x39 => decodePlain w .wrClockid
  | 0x3A => decodePlain w .wrPortid
  | 0x40 => decodePlain w .updateParams
  | 0x41 => decodePlain w .setAllPorts
  | 0x42 => decodePlain w .isAllPorts
  | 0x43 => decodeAction w .setAction
  | 0x48 => decodeSeq w .build
  | 0x49 => decodeSeq w .buildCap
  | 0x4C => decodePlain w .parse
  | _ => .error .unassignedOpcode

/-- The host's question: the instruction read from an opcode-table word of `nbits` bits. A command is one word, given to
the command port whole, so no byte order enters (DEDUCED, log entry 15). -/
def decodeTableWord (nbits w : Nat) : Option Instr :=
  match decode (BitVec.ofNat 32 (w % 2 ^ nbits)) with
  | .ok i => some i
  | .error _ => none

/-- The opcode of an instruction (R103). -/
def opcodeOf : Instr → BitVec 8
  | .openRd => 0x01
  | .openWr => 0x02
  | .close => 0x03
  | .rdU8 => 0x10
  | .rdU16 => 0x11
  | .rdU32 => 0x12
  | .rdU48 => 0x13
  | .rdU64 => 0x14
  | .rdI8 => 0x15
  | .rdI16 => 0x16
  | .rdI32 => 0x17
  | .rdI48 => 0x18
  | .rdI64 => 0x19
  | .rdU64le => 0x1A
  | .wrU8 => 0x20
  | .wrU16 => 0x21
  | .wrU32 => 0x22
  | .wrU48 => 0x23
  | .wrU64 => 0x24
  | .wrI8 => 0x25
  | .wrI16 => 0x26
  | .wrI32 => 0x27
  | .wrI48 => 0x28
  | .wrI64 => 0x29
  | .wrU64le => 0x2A
  | .rdTimestamp => 0x30
  | .rdClockid => 0x31
  | .rdPortid => 0x32
  | .wrTimestamp => 0x38
  | .wrClockid => 0x39
  | .wrPortid => 0x3A
  | .updateParams => 0x40
  | .setAllPorts => 0x41
  | .isAllPorts => 0x42
  | .setAction _ _ _ => 0x43
  | .build _ => 0x48
  | .buildCap _ => 0x49
  | .parse => 0x4C

/-- The immediate `w[23:0]` of an instruction (R101, R102). -/
def immediateOf : Instr → BitVec 24
  | .setAction v act id => (0#3 ++ BitVec.ofBool v ++ act ++ id : BitVec 24)
  | .build seq => (0#8 ++ seq : BitVec 24)
  | .buildCap seq => (0#8 ++ seq : BitVec 24)
  | .openRd | .openWr | .close => 0
  | .rdU8 | .rdU16 | .rdU32 | .rdU48 | .rdU64 | .rdI8 | .rdI16 | .rdI32 | .rdI48 | .rdI64 | .rdU64le => 0
  | .wrU8 | .wrU16 | .wrU32 | .wrU48 | .wrU64 | .wrI8 | .wrI16 | .wrI32 | .wrI48 | .wrI64 | .wrU64le => 0
  | .rdTimestamp | .rdClockid | .rdPortid | .wrTimestamp | .wrClockid | .wrPortid => 0
  | .updateParams | .setAllPorts | .isAllPorts | .parse => 0

/-- The command word of an instruction: opcode, then immediate (R100). -/
def encode (i : Instr) : CommandWord := (opcodeOf i ++ immediateOf i : BitVec 32)

end Sys2Proof
end

