-- ==== Sys2Proof/Machine/HostPort.lean ====
section
/-! DEFINITION. What the host can do between commands (00_scope.md R4; 10_state.md R67; 20_memory.md R73), and the
refusal of a word that is no command. -/

namespace Sys2Proof.Machine

/-- A 1-bit register as 64 bits. -/
def bitWord (b : Bool) : Word64 := (BitVec.ofBool b).setWidth 64

/-- The register map (R67): the register's value zero-extended to 64 bits; none for a number not in the table. -/
def registerMap (s : State) (number : BitVec 8) : Option Word64 :=
  match number.toNat with
  | 0x00 => some (s.readX 0)
  | 0x01 => some (s.readX 1)
  | 0x02 => some (s.readX 2)
  | 0x03 => some (s.readX 3)
  | 0x04 => some (s.readX 4)
  | 0x05 => some (s.readX 5)
  | 0x06 => some (s.readX 6)
  | 0x07 => some (s.readX 7)
  | 0x10 => some (s.st.number.setWidth 64)
  | 0x11 => some (s.dir.number.setWidth 64)
  | 0x12 => some (s.cur.setWidth 64)
  | 0x13 => some (s.lim.setWidth 64)
  | 0x20 => some (bitWord s.pv)
  | 0x21 => some (s.par.ts.setWidth 64)
  | 0x22 => some (s.par.domain.setWidth 64)
  | 0x23 => some (s.par.hops.setWidth 64)
  | 0x24 => some (bitWord s.par.unicast)
  | 0x25 => some (bitWord s.par.linuxptp)
  | 0x26 => some (bitWord s.par.responder)
  | 0x27 => some s.par.selfId.cid
  | 0x28 => some (s.par.selfId.port.setWidth 64)
  | 0x29 => some s.par.target.cid
  | 0x2A => some (s.par.target.port.setWidth 64)
  | 0x30 => some (bitWord s.av)
  | 0x31 => some (s.act.action.setWidth 64)
  | 0x32 => some (s.act.id.setWidth 64)
  | 0x33 => some (bitWord s.act.dsValid)
  | 0x34 => some s.act.dataSend
  | 0x40 => some (s.res.perr.number.setWidth 64)
  | 0x41 => some (s.res.seq.setWidth 64)
  | 0x42 => some s.res.peer.cid
  | 0x43 => some (s.res.peer.port.setWidth 64)
  | 0x44 => some (bitWord s.res.unicast)
  | 0x45 => some (s.res.action.setWidth 64)
  | 0x46 => some (bitWord s.res.hasTlv)
  | 0x47 => some (s.res.tlvType.setWidth 64)
  | 0x48 => some (bitWord s.res.tlvIdValid)
  | 0x49 => some (s.res.tlvId.setWidth 64)
  | 0x4A => some (bitWord s.res.dataValid)
  | 0x4B => some s.res.data
  | 0x4C => some (s.res.errId.setWidth 64)
  | 0x4D => some (s.res.errMid.setWidth 64)
  | 0x4E => some (s.res.displayLen.setWidth 64)
  | _ => none

/-- The register read port (R67). No read has a side effect. -/
def hostReadRegister (number : BitVec 8) (s : State) : Result :=
  match registerMap s number with
  | some v => .next (s.withPortOut v)
  | none => .refused .unmappedRegister

/-- The register write port: `x[0..7]` only (R67). -/
def hostWriteRegister (number : BitVec 8) (value : Word64) (s : State) : Result :=
  if h : number.toNat < 8 then .next (s.writeX ⟨number.toNat, h⟩ value) else .refused .registerNotWritable

/-- The host writes one octet of `RX` (R70, R73). -/
def hostWriteRx (c : Impl) (offset : Nat) (o : Octet) (s : State) : Result :=
  if offset < c.rxSize then .next (s.withRx (s.rx.write offset o)) else .fault (.noSuchOctet .rx offset)

/-- The host reads one octet of a memory (R73). -/
def hostReadOctet (c : Impl) (sp : Space) (offset : Nat) (s : State) : Result :=
  if offset < spaceSize c sp then .next (s.withPortOut (((s.space sp).read offset).setWidth 64))
  else .fault (.noSuchOctet sp offset)

/-- The refusal of a word that is no command (30_encoding.md R104). -/
def refusalOf : DecodeError → Refusal
  | .unassignedOpcode => .unassignedOpcode
  | .nonzeroReserved => .nonzeroReserved

end Sys2Proof.Machine
end

