-- ==== Sys2Proof/Machine/Step.lean ====
section
/-! DEFINITION. One step of the machine: the host's next step, taken by the engine (00_scope.md R4, R5). -/

namespace Sys2Proof.Machine

/-- Take the next host step. A command is decoded and executed; a word that is no command is refused (R104); with no host
step to come the engine is idle and waits (R324). -/
def step (s : State) : Host.Outcome State Fault Refusal :=
  match s.host with
  | [] => .next s
  | .command w :: rest =>
    match decode w with
    | .ok i => exec i (s.withHost rest)
    | .error e => .refused (refusalOf e)
  | .readRegister number :: rest => hostReadRegister number (s.withHost rest)
  | .writeRegister number value :: rest => hostWriteRegister number value (s.withHost rest)
  | .writeRx offset o :: rest => hostWriteRx Config.impl offset o (s.withHost rest)
  | .readOctet sp offset :: rest => hostReadOctet Config.impl sp offset (s.withHost rest)

/-- The host issues this command next (log entry 1): the word's bits above `nbits` are zero. -/
def State.withFetchWord (s : State) (nbits w : Nat) : State :=
  s.withHost (.command (BitVec.ofNat 32 (w % 2 ^ nbits)) :: s.host)

end Sys2Proof.Machine
end

