-- ==== Sys2Proof/Safety.lean ====
section
/-! DEFINITION. What counts as a sound state, in the terms the statements use: the invariants the spec states of the
cursor (10_state.md R38), the action registers (42_frame_engine.md R205), the valid bits (R40, R50, R53, R61, R62) and
the memories (20_memory.md R82); and which command can return which code (60_exceptions.md R293). -/

namespace Sys2Proof.Machine

/-- R38: while a window is open, `CUR <= LIM` and `LIM` is within the window's buffer. -/
def WindowOk (c : Impl) (s : State) : Prop :=
  (s.dir = .parse → s.cur.toNat ≤ s.lim.toNat ∧ s.lim.toNat ≤ c.rxSize) ∧
  (s.dir = .build → s.cur.toNat ≤ s.lim.toNat ∧ s.lim.toNat ≤ c.txSize)

/-- R205: a valid action is one the registry allows for its ID; and it was set with valid parameters (R40). -/
def ActionOk (c : Impl) (s : State) : Prop :=
  s.av = true →
    s.pv = true ∧ s.act.action.toNat ≤ 4 ∧ (s.act.action = actGet → s.act.dsValid = false) ∧
    ∃ row, c.reg s.act.id = some row ∧ row.size ≠ .unsupported ∧ allowedAction row s.act.action = true

/-- A decoded value belongs to a validated ID, and a validated ID to a MANAGEMENT TLV (R66). -/
def ResultsOk (s : State) : Prop :=
  (s.res.dataValid = true → s.res.tlvIdValid = true) ∧
  (s.res.tlvIdValid = true → s.res.hasTlv = true ∧ s.res.tlvType = tlvManagement)

/-- The three memories have their canonical form and list no offset outside their buffer (R82). -/
def MemoriesOk (c : Impl) (s : State) : Prop :=
  ∀ sp, (s.space sp).wf = true ∧ (s.space sp).within (spaceSize c sp) = true

/-- The invariant of the machine. -/
structure Sound (c : Impl) (s : State) : Prop where
  window : WindowOk c s
  action : ActionOk c s
  results : ResultsOk s
  memories : MemoriesOk c s

/-- Every read command, compound ones included (R157). -/
def readCommands : List Instr :=
  [.rdU8, .rdU16, .rdU32, .rdU48, .rdU64, .rdI8, .rdI16, .rdI32, .rdI48, .rdI64, .rdU64le,
   .rdTimestamp, .rdClockid, .rdPortid]

/-- Every write command, compound ones included (R157). -/
def writeCommands : List Instr :=
  [.wrU8, .wrU16, .wrU32, .wrU48, .wrU64, .wrI8, .wrI16, .wrI32, .wrI48, .wrI64, .wrU64le,
   .wrTimestamp, .wrClockid, .wrPortid]

/-- The codes a command can return (R293). -/
def codesOf : Instr → List Code
  | .openRd | .openWr | .close => [.ok]
  | .rdU8 | .rdU16 | .rdU32 | .rdU48 | .rdU64 | .rdI8 | .rdI16 | .rdI32 | .rdI48 | .rdI64 | .rdU64le => [.ok, .tooSmall]
  | .rdTimestamp | .rdClockid | .rdPortid => [.ok, .tooSmall]
  | .wrU8 | .wrU16 | .wrU32 | .wrU64 | .wrI8 | .wrI16 | .wrI32 | .wrI64 | .wrU64le => [.ok, .tooSmall]
  | .wrClockid | .wrPortid => [.ok, .tooSmall]
  | .wrU48 | .wrI48 | .wrTimestamp => [.ok, .val, .tooSmall]
  | .updateParams | .setAllPorts | .isAllPorts | .setAction _ _ _ => [.ok]
  | .build _ | .buildCap _ => [.ok, .tooSmall, .unsupport, .val, .sizeMiss, .mem]
  | .parse =>
    [.ok, .msg, .invalidId, .invalidTlv, .sizeMiss, .tooSmall, .size, .val, .header, .action, .unsupport, .mem]

end Sys2Proof.Machine
end

