-- ==== Sys2Proof/Certificates/Slice0/Obligations.lean ====
section
/-! DEFINITION. The statements for the provers. They come from the numbered rules of spec/. Wire values are said as the sums
of 00_scope.md R14 and messages octet by octet, in this file's own words, not through the functions the meanings use.

A command that reaches `REG` or `PROC` is stated twice in one statement: for every parameter set `c` (of which the tests
show concrete ones), and for `exec`, which uses the machine's own `Config.impl`. -/

namespace Sys2Proof.Machine

/-! ### Wire values -/

/-- `be_N` of the `k` octets at offset `a` (R14). -/
def wireValue (m : Memory) (a k : Nat) : Nat :=
  ∑ j ∈ Finset.range k, (m.read (a + j)).toNat * 256 ^ (k - 1 - j)

/-- `le_64` for `k = 8` (R14). -/
def wireValueLE (m : Memory) (a k : Nat) : Nat :=
  ∑ j ∈ Finset.range k, (m.read (a + j)).toNat * 256 ^ j

/-- `bytes_be_N` of the low `8k` bits of `n` (R14). -/
def octetsBE (k n : Nat) : List Octet := (List.range k).map fun j => BitVec.ofNat 8 (n / 256 ^ (k - 1 - j))

/-- `bytes_le_64` for `k = 8` (R14). -/
def octetsLE (k n : Nat) : List Octet := (List.range k).map fun j => BitVec.ofNat 8 (n / 256 ^ j)

/-- The 64-bit pattern of the `n`-bit value `u` read as signed (R153). -/
def signedPattern (n u : Nat) : Word64 :=
  if u < 2 ^ (n - 1) then BitVec.ofNat 64 u else BitVec.ofNat 64 (u + 2 ^ 64 - 2 ^ n)

/-- `m'` holds the octets `o` from offset `a` on and reads as `m` everywhere else (R16, R80). -/
def Stores (m m' : Memory) (a : Nat) (o : List Octet) : Prop :=
  (∀ j (h : j < o.length), m'.read (a + j) = o[j]) ∧ ∀ b, b < a ∨ a + o.length ≤ b → m'.read b = m.read b

/-! ### The codec commands, with the octets they move and their words -/

/-- RD_U8 to RD_U64 and RD_CLOCKID. -/
def unsignedReads : List (Instr × Nat × CommandWord) :=
  [(.rdU8, 1, 0x10000000), (.rdU16, 2, 0x11000000), (.rdU32, 4, 0x12000000), (.rdU48, 6, 0x13000000),
   (.rdU64, 8, 0x14000000), (.rdClockid, 8, 0x31000000)]

/-- RD_I8 to RD_I64. -/
def signedReads : List (Instr × Nat × CommandWord) :=
  [(.rdI8, 1, 0x15000000), (.rdI16, 2, 0x16000000), (.rdI32, 4, 0x17000000), (.rdI48, 6, 0x18000000),
   (.rdI64, 8, 0x19000000)]

/-- The writes with no range check, but WR_U64LE. -/
def uncheckedWrites : List (Instr × Nat × CommandWord) :=
  [(.wrU8, 1, 0x20000000), (.wrU16, 2, 0x21000000), (.wrU32, 4, 0x22000000), (.wrU64, 8, 0x24000000),
   (.wrI8, 1, 0x25000000), (.wrI16, 2, 0x26000000), (.wrI32, 4, 0x27000000), (.wrI64, 8, 0x29000000),
   (.wrClockid, 8, 0x39000000)]

/-- The commands of one primitive (R186). -/
def primitiveCommands : List Instr :=
  [.rdU8, .rdU16, .rdU32, .rdU48, .rdU64, .rdI8, .rdI16, .rdI32, .rdI48, .rdI64, .rdU64le, .rdClockid,
   .wrU8, .wrU16, .wrU32, .wrU48, .wrU64, .wrI8, .wrI16, .wrI32, .wrI48, .wrI64, .wrU64le, .wrClockid]

/-- `trunc_n` of a register value, zero-extended again. -/
def truncated (n : Nat) (v : Word64) : Word64 := (v.setWidth n).setWidth 64

/-- `sext_64` of `trunc_n` of a register value. -/
def truncatedSigned (n : Nat) (v : Word64) : Word64 := (v.setWidth n).signExtend 64

/-- A write, a read of the octets it wrote, and what that read gives of the value written (R184). -/
def writeReadPairs : List (Instr × Instr × (Word64 → Word64)) :=
  [(.wrU8, .rdU8, truncated 8), (.wrU8, .rdI8, truncatedSigned 8), (.wrI8, .rdU8, truncated 8),
   (.wrI8, .rdI8, truncatedSigned 8),
   (.wrU16, .rdU16, truncated 16), (.wrU16, .rdI16, truncatedSigned 16), (.wrI16, .rdU16, truncated 16),
   (.wrI16, .rdI16, truncatedSigned 16),
   (.wrU32, .rdU32, truncated 32), (.wrU32, .rdI32, truncatedSigned 32), (.wrI32, .rdU32, truncated 32),
   (.wrI32, .rdI32, truncatedSigned 32),
   (.wrU64, .rdU64, id), (.wrU64, .rdI64, id), (.wrI64, .rdU64, id), (.wrI64, .rdI64, id),
   (.wrU48, .rdU48, id), (.wrI48, .rdI48, id), (.wrU64le, .rdU64le, id)]

/-- A read, the write of what it read, and the octets moved (R185). -/
def readWritePairs : List (Instr × Instr × Nat) :=
  [(.rdU8, .wrU8, 1), (.rdI8, .wrI8, 1), (.rdU16, .wrU16, 2), (.rdI16, .wrI16, 2), (.rdU32, .wrU32, 4),
   (.rdI32, .wrI32, 4), (.rdU48, .wrU48, 6), (.rdI48, .wrI48, 6), (.rdU64, .wrU64, 8), (.rdI64, .wrI64, 8),
   (.rdU64le, .wrU64le, 8)]

/-- What a read consumed, the write appends again: the same octets at the same offsets, the range checks passing. -/
def Reproduces (r w : Instr) (k : Nat) : Prop :=
  ∀ s t : State, exec r s = .next t → t.st = .ok →
    ∃ u, exec w { t with dir := .build, cur := s.cur } = .next u ∧ u.st = .ok ∧
      ∀ j < k, u.tx.read (s.cur.toNat + j) = s.rx.read (s.cur.toNat + j)

/-! ### The frame engine in the spec's words -/

/-- BUILD and BUILD_CAP. -/
def IsBuild (i : Instr) : Prop := ∃ seq, i = .build seq ∨ i = .buildCap seq

/-- The commands R40 refuses while `PV = 0`. -/
def NeedsParameters (i : Instr) : Prop :=
  i = .setAllPorts ∨ i = .isAllPorts ∨ (∃ v act id, i = .setAction v act id) ∨ IsBuild i ∨ i = .parse

/-- `gated(REG(id))`: the ID is known, linuxptp-only and not opted in (R201). -/
def GatedId (c : Impl) (par : ParamRegs) (id : BitVec 16) : Prop :=
  ∃ row, c.reg id = some row ∧ row.linuxptpOnly = true ∧ par.linuxptp = false

/-- The action matrix of R202. -/
def MatrixAllows (row : Row) (act : BitVec 4) : Prop :=
  (act = 0 ∧ row.allowGet = true) ∨ (act = 1 ∧ row.allowSet = true) ∨
  (act = 2 ∧ (row.allowGet = true ∨ row.allowSet = true)) ∨
  (act = 3 ∧ row.allowCommand = true) ∨ (act = 4 ∧ row.allowCommand = true)

/-- The role check of R203. -/
def RoleAccepts (c : Impl) (par : ParamRegs) (act : BitVec 4) : Prop :=
  act = 2 ∨ act = 4 ∨ (par.responder = true ∧ (act = 1 ∨ act = 3 ∨ (act = 0 ∧ c.acceptGetAsResponder = true)))

/-- SET_ACTION's validation (R213). -/
def ActionValid (c : Impl) (par : ParamRegs) (act : BitVec 4) (id : BitVec 16) : Prop :=
  ∃ row, c.reg id = some row ∧ ¬ GatedId c par id ∧ row.size ≠ .unsupported ∧ MatrixAllows row act

/-- What SET_ACTION leaves (R213): the action accepted, or nothing changed but `x[0]` and `ST`. Nothing is said of
`A_DATASEND` where no value is attached. -/
def SetActionEffect (c : Impl) (v : Bool) (act : BitVec 4) (id : BitVec 16) (s t : State) : Prop :=
  (ActionValid c s.par act id →
    t = { s with x := { s.x with x0 := 1 }, st := .ok, av := true, draws := t.draws,
                 act := { action := act, id := id, dsValid := v && act != 0, dataSend := t.act.dataSend } } ∧
    ((v && act != 0) = true → t.act.dataSend = s.x.x0)) ∧
  (¬ ActionValid c s.par act id → t = { s with x := { s.x with x0 := 0 }, st := .ok })

/-- The pad octet of a dataField (R228). -/
def padOf (data : List Octet) : List Octet := if (2 + data.length) % 2 = 1 then [0] else []

/-- Octet `j` of the PTP header of a message of `len` octets: the field that lies there, zero where none does (R113, R120).
The offsets and the mask are the parameters of R8. -/
def headerOctet (l : HeaderLayout) (par : ParamRegs) (seq : BitVec 16) (len j : Nat) : Octet :=
  if j = l.offTsmt then par.ts ++ 0xD#4
  else if j = l.offVer then 0x02
  else if j = l.offMsgLen then BitVec.ofNat 8 (len / 256)
  else if j = l.offMsgLen + 1 then BitVec.ofNat 8 len
  else if j = l.offDomain then par.domain
  else if j = l.offFlags then if par.unicast then l.unicastMask else 0
  else if l.offSrcPort ≤ j ∧ j < l.offSrcPort + 8 then
    BitVec.ofNat 8 (par.selfId.cid.toNat / 256 ^ (7 - (j - l.offSrcPort)))
  else if j = l.offSrcPort + 8 then BitVec.ofNat 8 (par.selfId.port.toNat / 256)
  else if j = l.offSrcPort + 9 then BitVec.ofNat 8 par.selfId.port.toNat
  else if j = 30 then BitVec.ofNat 8 (seq.toNat / 256)
  else if j = 31 then BitVec.ofNat 8 seq.toNat
  else if j = l.offControl then 0x04
  else if j = l.offLogInt then 0x7F
  else 0

/-- What follows the PTP header: the management header, then the TLV (R121, R123). -/
def framedPayload (par : ParamRegs) (act : BitVec 4) (id : BitVec 16) (data : List Octet) : List Octet :=
  octetsBE 8 par.target.cid.toNat ++ octetsBE 2 par.target.port.toNat ++ [par.hops, par.hops, 0#4 ++ act, 0] ++
  [0x00, 0x01] ++ octetsBE 2 (2 + data.length + (padOf data).length) ++ octetsBE 2 id.toNat ++ data ++ padOf data

/-- A whole management message, octet by octet (R113, R121, R123). -/
def framedMessage (l : HeaderLayout) (par : ParamRegs) (act : BitVec 4) (id seq : BitVec 16) (data : List Octet) :
    List Octet :=
  (List.range 34).map (headerOctet l par seq (54 + data.length + (padOf data).length)) ++ framedPayload par act id data

/-- The same with the PTP header written field after field in the order of R223, its offsets those R8 recommends. -/
def orderedMessage (par : ParamRegs) (act : BitVec 4) (id seq : BitVec 16) (data : List Octet) : List Octet :=
  [par.ts ++ 0xD#4, 0x02] ++ octetsBE 2 (54 + data.length + (padOf data).length) ++
  [par.domain, 0, if par.unicast then 0x04 else 0, 0] ++ List.replicate 12 0 ++
  octetsBE 8 par.selfId.cid.toNat ++ octetsBE 2 par.selfId.port.toNat ++ octetsBE 2 seq.toNat ++ [0x04, 0x7F] ++
  framedPayload par act id data

/-- The value `PROC.build` is given (R220). -/
def dataOffered (s : State) : Option Val := if s.act.dsValid then some s.act.dataSend else none

/-- What BUILD and BUILD_CAP leave for the capacity `cap` (R220 to R230). Only `x[0]`, `ST`, the cursor and `TX` change;
after an error nothing is said of `x[0]` and `TX`, and never of `CUR` and `LIM`. -/
def BuildEffect (c : Impl) (cap : Nat) (seq : BitVec 16) (s t : State) : Prop :=
  t = { s with x := { s.x with x0 := t.x.x0 }, st := t.st, dir := .idle, cur := t.cur, lim := t.lim, tx := t.tx,
               draws := t.draws } ∧
  (GatedId c s.par s.act.id → t.st = .unsupport) ∧
  (¬ GatedId c s.par s.act.id → cap < 54 → t.st = .tooSmall) ∧
  (¬ GatedId c s.par s.act.id → 54 ≤ cap → ∀ e, c.procBuild s.act.id s.act.action (dataOffered s) = .error e →
    t.st = codeOfProcError e) ∧
  (¬ GatedId c s.par s.act.id → 54 ≤ cap → ∀ data, c.procBuild s.act.id s.act.action (dataOffered s) = .ok data →
    let msg := framedMessage c.header s.par s.act.action s.act.id seq data
    (cap < msg.length → t.st = .tooSmall) ∧
    (msg.length ≤ cap → t.st = .ok ∧ t.x.x0 = BitVec.ofNat 64 msg.length ∧ Stores s.tx t.tx 0 msg))

/-- The size check of R246: a fixed size, rounded up to even, must be the length of dataField and pad. -/
def wrongSize : RowSize → Nat → Bool
  | .fixed k, n => n != k + k % 2
  | .unsupported, _ => false
  | .byValue, _ => false

/-- The tests of PARSE in order and the code of each; the first that fails decides (R251). `n` is the operand; the header
offsets are the parameters of R8. -/
def parseOrder (c : Impl) (par : ParamRegs) (m : Memory) (n : Nat) : Code :=
  let len := wireValue m 50 2
  let act : BitVec 4 := BitVec.ofNat 4 (m.read 46).toNat
  if n < 44 then .tooSmall
  else if n < wireValue m c.header.offMsgLen 2 then .tooSmall
  else if wireValue m c.header.offMsgLen 2 < n then .header
  else if (m.read c.header.offVer).toNat % 16 ≠ 2 then .header
  else if (m.read c.header.offTsmt).toNat % 16 ≠ 13 then .header
  else if (m.read c.header.offControl).toNat ≠ 4 then .header
  else if n < 48 then .tooSmall
  else if n = 48 then .ok
  else if n < 52 then .tooSmall
  else if wireValue m 48 2 ≠ 1 ∧ wireValue m 48 2 ≠ 2 then .invalidTlv
  else if len % 2 = 1 then .size
  else if n - 52 < len then .invalidTlv
  else if wireValue m 48 2 = 2 then
    if len < 2 then .tooSmall
    else if wireValue m 52 2 ∉ [1, 2, 3, 4, 5, 6, 0xFFFE] then .val
    else if len < 8 then .tooSmall
    else if 8 < len ∧ len - 9 < (m.read 60).toNat then .sizeMiss
    else .msg
  else if len < 2 then .tooSmall
  else
    match c.reg (BitVec.ofNat 16 (wireValue m 52 2)) with
    | none => .invalidId
    | some row =>
      if row.linuxptpOnly = true ∧ par.linuxptp = false then .invalidId
      else if ¬ (act = 2 ∨ act = 4 ∨ (par.responder = true ∧ (act = 1 ∨ act = 3 ∨ (act = 0 ∧ c.acceptGetAsResponder = true))))
        then .action
      else if (act = 0 ∧ row.allowGet = false) ∨ (act = 1 ∧ row.allowSet = false) ∨
          (act = 2 ∧ row.allowGet = false ∧ row.allowSet = false) ∨ ((act = 3 ∨ act = 4) ∧ row.allowCommand = false)
        then .invalidId
      else if row.size = .unsupported then .unsupport
      else if act = 0 then .ok
      else if wrongSize row.size (len - 2) then .sizeMiss
      else
        match c.procParse (BitVec.ofNat 16 (wireValue m 52 2)) act ((List.range (len - 2)).map fun j => m.read (54 + j)) with
        | .error e => codeOfProcError e
        | .ok _ => .ok

/-- What PARSE leaves (R249): the code of R251 in `ST` and `R_PERR`, the window closed, and nothing but the result
registers, `DISP`, `ST` and the cursor changed. -/
def ParseEffect (c : Impl) (s t : State) : Prop :=
  t = { s with st := t.st, dir := .idle, cur := t.cur, lim := t.lim, res := t.res, disp := t.disp, draws := t.draws } ∧
  t.st = parseOrder c s.par s.rx s.x.x0.toNat ∧ t.res.perr = t.st

/-- The result registers the headers define (R66, R237, R238). -/
def HeaderDefined (l : HeaderLayout) (m : Memory) (r : ResultRegs) : Prop :=
  r.seq.toNat = wireValue m 30 2 ∧ r.peer.cid.toNat = wireValue m l.offSrcPort 8 ∧
  r.peer.port.toNat = wireValue m (l.offSrcPort + 8) 2 ∧ (r.unicast = true ↔ m.read l.offFlags &&& l.unicastMask ≠ 0) ∧
  r.action.toNat = (m.read 46).toNat % 16

/-- A message that passes R235 to R238 (the length, the constants, the management header). -/
def HeaderPasses (l : HeaderLayout) (m : Memory) (n : Nat) : Prop :=
  48 ≤ n ∧ wireValue m l.offMsgLen 2 = n ∧ (m.read l.offVer).toNat % 16 = 2 ∧ (m.read l.offTsmt).toNat % 16 = 13 ∧
  (m.read l.offControl).toNat = 4

/-- A message that passes R235 to R239 with a MANAGEMENT TLV long enough to hold an ID. -/
def ManagementPasses (l : HeaderLayout) (m : Memory) (n : Nat) : Prop :=
  HeaderPasses l m n ∧ 54 ≤ n ∧ wireValue m 48 2 = 1 ∧ wireValue m 50 2 % 2 = 0 ∧ 2 ≤ wireValue m 50 2 ∧
  wireValue m 50 2 ≤ n - 52

/-- The register map of R67: number, and the register's value zero-extended. -/
def mappedRegisters : List (Nat × (State → Nat)) :=
  [(0x00, fun s => s.x.x0.toNat), (0x01, fun s => s.x.x1.toNat), (0x02, fun s => s.x.x2.toNat),
   (0x03, fun s => s.x.x3.toNat), (0x04, fun s => s.x.x4.toNat), (0x05, fun s => s.x.x5.toNat),
   (0x06, fun s => s.x.x6.toNat), (0x07, fun s => s.x.x7.toNat),
   (0x10, fun s => s.st.number.toNat), (0x11, fun s => s.dir.number.toNat), (0x12, fun s => s.cur.toNat),
   (0x13, fun s => s.lim.toNat),
   (0x20, fun s => s.pv.toNat), (0x21, fun s => s.par.ts.toNat), (0x22, fun s => s.par.domain.toNat),
   (0x23, fun s => s.par.hops.toNat), (0x24, fun s => s.par.unicast.toNat), (0x25, fun s => s.par.linuxptp.toNat),
   (0x26, fun s => s.par.responder.toNat), (0x27, fun s => s.par.selfId.cid.toNat),
   (0x28, fun s => s.par.selfId.port.toNat), (0x29, fun s => s.par.target.cid.toNat),
   (0x2A, fun s => s.par.target.port.toNat),
   (0x30, fun s => s.av.toNat), (0x31, fun s => s.act.action.toNat), (0x32, fun s => s.act.id.toNat),
   (0x33, fun s => s.act.dsValid.toNat), (0x34, fun s => s.act.dataSend.toNat),
   (0x40, fun s => s.res.perr.number.toNat), (0x41, fun s => s.res.seq.toNat), (0x42, fun s => s.res.peer.cid.toNat),
   (0x43, fun s => s.res.peer.port.toNat), (0x44, fun s => s.res.unicast.toNat), (0x45, fun s => s.res.action.toNat),
   (0x46, fun s => s.res.hasTlv.toNat), (0x47, fun s => s.res.tlvType.toNat), (0x48, fun s => s.res.tlvIdValid.toNat),
   (0x49, fun s => s.res.tlvId.toNat), (0x4A, fun s => s.res.dataValid.toNat), (0x4B, fun s => s.res.data.toNat),
   (0x4C, fun s => s.res.errId.toNat), (0x4D, fun s => s.res.errMid.toNat), (0x4E, fun s => s.res.displayLen.toNat)]

end Sys2Proof.Machine

open Sys2Proof Sys2Proof.Machine

/-! ### Encoding -/

/-- No bit of an encoding is dropped: every instruction, with every operand, decodes from its own word (R100 to R103). -/
def Obligations.DecodeInvertsEncode : Prop := ∀ i : Instr, decode (encode i) = .ok i

/-- Each word has one meaning: a word that decodes is the encoding of what it decodes to (R100 to R104). -/
def Obligations.EncodeInvertsDecode : Prop := ∀ (w : CommandWord) (i : Instr), decode w = .ok i → encode i = w

/-- R104: a word is refused exactly where its opcode is unassigned or a must-be-zero bit is set; in SET_ACTION the `act`
values 5 to 15 are no reserved encodings, the command completes and returns false. -/
def Obligations.ReservedWordsAreRefused : Prop :=
  (∀ (s : State) (w : CommandWord) (rest : List HostStep), s.host = .command w :: rest →
    (wordWellFormed w = false → step s = .refused .unassignedOpcode ∨ step s = .refused .nonzeroReserved) ∧
    (wordWellFormed w = true → ∃ i, decode w = .ok i)) ∧
  (∀ (v : Bool) (act : BitVec 4) (id : BitVec 16) (s : State), 4 < act.toNat → s.pv = true →
    exec (.setAction v act id) s = .next { s with x := { s.x with x0 := 0 }, st := .ok })

/-- A few words of the opcode map, one a family (R103, R145). -/
def Obligations.WordsOfTheMapDecode : Prop :=
  decode 0x02000000 = .ok .openWr ∧ decode 0x18000000 = .ok .rdI48 ∧ decode 0x2A000000 = .ok .wrU64le ∧
  decode 0x3A000000 = .ok .wrPortid ∧ decode 0x43112005 = .ok (.setAction true 1 0x2005) ∧
  decode 0x49001234 = .ok (.buildCap 0x1234) ∧ decode 0x4C000000 = .ok .parse

/-! ### The step and the host's port -/

/-- A step runs the decoded command: it takes the command off the host's list and is `exec` of it. The list is the
model's own (log entry 1). -/
def Obligations.StepRunsTheDecodedCommand : Prop :=
  ∀ (s : State) (w : CommandWord) (rest : List HostStep) (i : Instr),
    s.host = .command w :: rest → decode w = .ok i → step s = exec i { s with host := rest }

/-- With no host step to come the engine waits: nothing changes. The list is the model's own (log entry 1). -/
def Obligations.IdleEngineWaits : Prop := ∀ s : State, s.host = [] → step s = .next s

/-- R67: a port read gives the register's value zero-extended and changes nothing else; a number not in the table is
refused; a port write of `x[0..7]` writes that register alone; a write above 0x07 is refused. -/
def Obligations.RegisterPortFollowsTheMap : Prop :=
  (∀ (s : State) (number : BitVec 8) (rest : List HostStep), s.host = .readRegister number :: rest →
    (∀ f, (number.toNat, f) ∈ mappedRegisters →
      step s = .next { s with host := rest, portOut := BitVec.ofNat 64 (f s) }) ∧
    (number.toNat ∉ mappedRegisters.map (·.1) → step s = .refused .unmappedRegister)) ∧
  (∀ (s : State) (number : BitVec 8) (v : Word64) (rest : List HostStep),
    s.host = .writeRegister number v :: rest →
    (∀ h : number.toNat < 8, ∃ t, step s = .next t ∧ t = { s with host := rest, x := t.x } ∧
      t.readX ⟨number.toNat, h⟩ = v ∧ ∀ j : Fin 8, j.val ≠ number.toNat → t.readX j = s.readX j) ∧
    (8 ≤ number.toNat → step s = .refused .registerNotWritable))

/-- The host writes one octet of `RX` and reads one octet of a memory, and nothing else changes. That an offset outside the
memory faults is the model's choice (log entry 8). -/
def Obligations.HostMovesOneOctet : Prop :=
  (∀ (s : State) (a : Nat) (o : Octet) (rest : List HostStep), s.host = .writeRx a o :: rest →
    (a < Config.impl.rxSize → ∃ m, Stores s.rx m a [o] ∧ step s = .next { s with host := rest, rx := m }) ∧
    (Config.impl.rxSize ≤ a → step s = .fault (.noSuchOctet .rx a))) ∧
  (∀ (s : State) (sp : Space) (a : Nat) (rest : List HostStep), s.host = .readOctet sp a :: rest →
    (a < spaceSize Config.impl sp →
      step s = .next { s with host := rest, portOut := BitVec.ofNat 64 ((s.space sp).read a).toNat }) ∧
    (spaceSize Config.impl sp ≤ a → step s = .fault (.noSuchOctet sp a)))

/-! ### Cursor commands -/

/-- R158. -/
def Obligations.OpenRdOpensAParseWindow : Prop :=
  decode 0x01000000 = .ok .openRd ∧ ∀ s : State,
    (s.x.x0.toNat + s.x.x1.toNat ≤ Config.impl.rxSize →
      exec .openRd s = .next { s with dir := .parse, cur := BitVec.ofNat 32 s.x.x0.toNat,
                                      lim := BitVec.ofNat 32 (s.x.x0.toNat + s.x.x1.toNat), st := .ok }) ∧
    (Config.impl.rxSize < s.x.x0.toNat + s.x.x1.toNat → exec .openRd s = .refused .windowOutsideBuffer)

/-- R159. -/
def Obligations.OpenWrOpensABuildWindow : Prop :=
  decode 0x02000000 = .ok .openWr ∧ ∀ s : State,
    (s.x.x0.toNat + s.x.x1.toNat ≤ Config.impl.txSize →
      exec .openWr s = .next { s with dir := .build, cur := BitVec.ofNat 32 s.x.x0.toNat,
                                      lim := BitVec.ofNat 32 (s.x.x0.toNat + s.x.x1.toNat), st := .ok }) ∧
    (Config.impl.txSize < s.x.x0.toNat + s.x.x1.toNat → exec .openWr s = .refused .windowOutsideBuffer)

/-- R160. -/
def Obligations.CloseLeavesTheCursorReadable : Prop :=
  decode 0x03000000 = .ok .close ∧ ∀ s : State, exec .close s = .next { s with dir := .idle, st := .ok }

/-- R157: a read command outside parse mode and a write command outside build mode are refused. -/
def Obligations.WrongDirectionIsRefused : Prop :=
  (∀ i ∈ readCommands, ∀ s : State, s.dir ≠ .parse → exec i s = .refused .wrongDirection) ∧
  (∀ i ∈ writeCommands, ∀ s : State, s.dir ≠ .build → exec i s = .refused .wrongDirection)

/-! ### Reads -/

/-- R161 to R165, R194: the big-endian value of the octets at the cursor, zero-extended, in `x[0]`; or `TOO_SMALL`. -/
def Obligations.UnsignedReadsGiveTheBigEndianValue : Prop :=
  ∀ i k w, (i, k, w) ∈ unsignedReads → decode w = .ok i ∧
    (∀ s : State, s.dir ≠ .parse → exec i s = .refused .wrongDirection) ∧ ∀ s : State, s.dir = .parse →
    (s.cur.toNat + k ≤ s.lim.toNat →
      exec i s = .next { s with x := { s.x with x0 := BitVec.ofNat 64 (wireValue s.rx s.cur.toNat k) },
                                cur := s.cur + BitVec.ofNat 32 k, st := .ok }) ∧
    (s.lim.toNat < s.cur.toNat + k → exec i s = .next { s with st := .tooSmall })

/-- R166 to R170: the same value sign-extended from its top bit. -/
def Obligations.SignedReadsSignExtend : Prop :=
  ∀ i k w, (i, k, w) ∈ signedReads → decode w = .ok i ∧
    (∀ s : State, s.dir ≠ .parse → exec i s = .refused .wrongDirection) ∧ ∀ s : State, s.dir = .parse →
    (s.cur.toNat + k ≤ s.lim.toNat →
      exec i s = .next { s with x := { s.x with x0 := signedPattern (8 * k) (wireValue s.rx s.cur.toNat k) },
                                cur := s.cur + BitVec.ofNat 32 k, st := .ok }) ∧
    (s.lim.toNat < s.cur.toNat + k → exec i s = .next { s with st := .tooSmall })

/-- R171: the little-endian escape. -/
def Obligations.LittleEndianReadGivesTheLittleEndianValue : Prop :=
  decode 0x1A000000 = .ok .rdU64le ∧
  (∀ s : State, s.dir ≠ .parse → exec .rdU64le s = .refused .wrongDirection) ∧ ∀ s : State, s.dir = .parse →
    (s.cur.toNat + 8 ≤ s.lim.toNat →
      exec .rdU64le s = .next { s with x := { s.x with x0 := BitVec.ofNat 64 (wireValueLE s.rx s.cur.toNat 8) },
                                       cur := s.cur + 8, st := .ok }) ∧
    (s.lim.toNat < s.cur.toNat + 8 → exec .rdU64le s = .next { s with st := .tooSmall })

/-! ### Writes -/

/-- R172 to R174, R176 to R179, R181, R195: the low bits of `x[0]`, big-endian, at the cursor in `TX`; or `TOO_SMALL`. -/
def Obligations.UncheckedWritesAppendTheLowBits : Prop :=
  ∀ i k w, (i, k, w) ∈ uncheckedWrites → decode w = .ok i ∧
    (∀ s : State, s.dir ≠ .build → exec i s = .refused .wrongDirection) ∧ ∀ s : State, s.dir = .build →
    (s.cur.toNat + k ≤ s.lim.toNat →
      ∃ m, Stores s.tx m s.cur.toNat (octetsBE k s.x.x0.toNat) ∧
        exec i s = .next { s with tx := m, cur := s.cur + BitVec.ofNat 32 k, st := .ok }) ∧
    (s.lim.toNat < s.cur.toNat + k → exec i s = .next { s with st := .tooSmall })

/-- R175: `VAL` above 2^48 - 1, before the capacity check. -/
def Obligations.WrU48ChecksTheRangeFirst : Prop :=
  decode 0x23000000 = .ok .wrU48 ∧
  (∀ s : State, s.dir ≠ .build → exec .wrU48 s = .refused .wrongDirection) ∧ ∀ s : State, s.dir = .build →
    (2 ^ 48 ≤ s.x.x0.toNat → exec .wrU48 s = .next { s with st := .val }) ∧
    (s.x.x0.toNat < 2 ^ 48 →
      (s.cur.toNat + 6 ≤ s.lim.toNat → ∃ m, Stores s.tx m s.cur.toNat (octetsBE 6 s.x.x0.toNat) ∧
        exec .wrU48 s = .next { s with tx := m, cur := s.cur + 6, st := .ok }) ∧
      (s.lim.toNat < s.cur.toNat + 6 → exec .wrU48 s = .next { s with st := .tooSmall }))

/-- R180: `VAL` outside [-2^47, 2^47 - 1], before the capacity check. -/
def Obligations.WrI48ChecksTheRangeFirst : Prop :=
  decode 0x28000000 = .ok .wrI48 ∧
  (∀ s : State, s.dir ≠ .build → exec .wrI48 s = .refused .wrongDirection) ∧ ∀ s : State, s.dir = .build →
    (¬ (-2 ^ 47 ≤ s.x.x0.toInt ∧ s.x.x0.toInt ≤ 2 ^ 47 - 1) → exec .wrI48 s = .next { s with st := .val }) ∧
    (-2 ^ 47 ≤ s.x.x0.toInt ∧ s.x.x0.toInt ≤ 2 ^ 47 - 1 →
      (s.cur.toNat + 6 ≤ s.lim.toNat → ∃ m, Stores s.tx m s.cur.toNat (octetsBE 6 s.x.x0.toNat) ∧
        exec .wrI48 s = .next { s with tx := m, cur := s.cur + 6, st := .ok }) ∧
      (s.lim.toNat < s.cur.toNat + 6 → exec .wrI48 s = .next { s with st := .tooSmall }))

/-- R182: the little-endian escape. -/
def Obligations.LittleEndianWriteAppendsLeastSignificantFirst : Prop :=
  decode 0x2A000000 = .ok .wrU64le ∧
  (∀ s : State, s.dir ≠ .build → exec .wrU64le s = .refused .wrongDirection) ∧ ∀ s : State, s.dir = .build →
    (s.cur.toNat + 8 ≤ s.lim.toNat →
      ∃ m, Stores s.tx m s.cur.toNat (octetsLE 8 s.x.x0.toNat) ∧
        exec .wrU64le s = .next { s with tx := m, cur := s.cur + 8, st := .ok }) ∧
    (s.lim.toNat < s.cur.toNat + 8 → exec .wrU64le s = .next { s with st := .tooSmall })

/-- R186: a primitive that returns a code other than OK changes nothing but `ST`. -/
def Obligations.FailingPrimitivesChangeOnlyTheStatus : Prop :=
  ∀ i ∈ primitiveCommands, ∀ s t : State, exec i s = .next t → t.st ≠ .ok → t = { s with st := t.st }

/-- R184: what a write appended, a read of its width gives back, with the octets copied from `TX` to `RX` and the
cursor set back. -/
def Obligations.WriteThenReadGivesTheValueBack : Prop :=
  ∀ w r f, (w, r, f) ∈ writeReadPairs → ∀ s t : State, exec w s = .next t → t.st = .ok →
    ∃ u, exec r { t with dir := .parse, cur := s.cur, rx := t.tx } = .next u ∧ u.st = .ok ∧ u.x.x0 = f s.x.x0

/-- R185: what a read consumed, the matching write reproduces octet by octet; the range checks pass. -/
def Obligations.ReadThenWriteReproducesTheOctets : Prop :=
  ∀ r w k, (r, w, k) ∈ readWritePairs → Reproduces r w k

/-! ### Compound codec -/

/-- R192: both fields, or `TOO_SMALL` with the cursor past the seconds where those fitted. -/
def Obligations.RdTimestampReadsSecondsThenNanoseconds : Prop :=
  decode 0x30000000 = .ok .rdTimestamp ∧
  (∀ s : State, s.dir ≠ .parse → exec .rdTimestamp s = .refused .wrongDirection) ∧ ∀ s : State, s.dir = .parse →
    (s.cur.toNat + 10 ≤ s.lim.toNat →
      exec .rdTimestamp s = .next { s with
        x := { s.x with x0 := BitVec.ofNat 64 (wireValue s.rx s.cur.toNat 6),
                        x1 := BitVec.ofNat 64 (wireValue s.rx (s.cur.toNat + 6) 4) },
        cur := s.cur + 10, st := .ok }) ∧
    (s.cur.toNat + 6 ≤ s.lim.toNat → s.lim.toNat < s.cur.toNat + 10 →
      exec .rdTimestamp s = .next { s with cur := s.cur + 6, st := .tooSmall }) ∧
    (s.lim.toNat < s.cur.toNat + 6 → exec .rdTimestamp s = .next { s with st := .tooSmall })

/-- R193: the range check first; then both fields, or `TOO_SMALL` with the six octets written where those fitted. -/
def Obligations.WrTimestampWritesSecondsThenNanoseconds : Prop :=
  decode 0x38000000 = .ok .wrTimestamp ∧
  (∀ s : State, s.dir ≠ .build → exec .wrTimestamp s = .refused .wrongDirection) ∧ ∀ s : State, s.dir = .build →
    (2 ^ 48 ≤ s.x.x0.toNat → exec .wrTimestamp s = .next { s with st := .val }) ∧
    (s.x.x0.toNat < 2 ^ 48 →
      (s.cur.toNat + 10 ≤ s.lim.toNat →
        ∃ m, Stores s.tx m s.cur.toNat (octetsBE 6 s.x.x0.toNat ++ octetsBE 4 s.x.x1.toNat) ∧
          exec .wrTimestamp s = .next { s with tx := m, cur := s.cur + 10, st := .ok }) ∧
      (s.cur.toNat + 6 ≤ s.lim.toNat → s.lim.toNat < s.cur.toNat + 10 →
        ∃ m, Stores s.tx m s.cur.toNat (octetsBE 6 s.x.x0.toNat) ∧
          exec .wrTimestamp s = .next { s with tx := m, cur := s.cur + 6, st := .tooSmall }) ∧
      (s.lim.toNat < s.cur.toNat + 6 → exec .wrTimestamp s = .next { s with st := .tooSmall }))

/-- R196: both fields, or `TOO_SMALL` with the cursor past the clock identity where that fitted. -/
def Obligations.RdPortidReadsClockIdentityThenPort : Prop :=
  decode 0x32000000 = .ok .rdPortid ∧
  (∀ s : State, s.dir ≠ .parse → exec .rdPortid s = .refused .wrongDirection) ∧ ∀ s : State, s.dir = .parse →
    (s.cur.toNat + 10 ≤ s.lim.toNat →
      exec .rdPortid s = .next { s with
        x := { s.x with x0 := BitVec.ofNat 64 (wireValue s.rx s.cur.toNat 8),
                        x1 := BitVec.ofNat 64 (wireValue s.rx (s.cur.toNat + 8) 2) },
        cur := s.cur + 10, st := .ok }) ∧
    (s.cur.toNat + 8 ≤ s.lim.toNat → s.lim.toNat < s.cur.toNat + 10 →
      exec .rdPortid s = .next { s with cur := s.cur + 8, st := .tooSmall }) ∧
    (s.lim.toNat < s.cur.toNat + 8 → exec .rdPortid s = .next { s with st := .tooSmall })

/-- R197: both fields, or `TOO_SMALL` with the eight octets written where those fitted. -/
def Obligations.WrPortidWritesClockIdentityThenPort : Prop :=
  decode 0x3A000000 = .ok .wrPortid ∧
  (∀ s : State, s.dir ≠ .build → exec .wrPortid s = .refused .wrongDirection) ∧ ∀ s : State, s.dir = .build →
    (s.cur.toNat + 10 ≤ s.lim.toNat →
      ∃ m, Stores s.tx m s.cur.toNat (octetsBE 8 s.x.x0.toNat ++ octetsBE 2 s.x.x1.toNat) ∧
        exec .wrPortid s = .next { s with tx := m, cur := s.cur + 10, st := .ok }) ∧
    (s.cur.toNat + 8 ≤ s.lim.toNat → s.lim.toNat < s.cur.toNat + 10 →
      ∃ m, Stores s.tx m s.cur.toNat (octetsBE 8 s.x.x0.toNat) ∧
        exec .wrPortid s = .next { s with tx := m, cur := s.cur + 8, st := .tooSmall }) ∧
    (s.lim.toNat < s.cur.toNat + 8 → exec .wrPortid s = .next { s with st := .tooSmall })

/-- R198: what WR_TIMESTAMP, WR_PORTID or WR_CLOCKID appended is read back, the second field cut to its width; and what
the reads consumed, the writes reproduce. -/
def Obligations.CompoundRoundTripsKeepEveryField : Prop :=
  (∀ w r n, (w, r, n) ∈ [(Instr.wrTimestamp, Instr.rdTimestamp, 32), (.wrPortid, .rdPortid, 16)] →
    ∀ s t : State, exec w s = .next t → t.st = .ok →
      ∃ u, exec r { t with dir := .parse, cur := s.cur, rx := t.tx } = .next u ∧ u.st = .ok ∧
        u.x.x0 = s.x.x0 ∧ u.x.x1 = truncated n s.x.x1) ∧
  (∀ s t : State, exec .wrClockid s = .next t → t.st = .ok →
    ∃ u, exec .rdClockid { t with dir := .parse, cur := s.cur, rx := t.tx } = .next u ∧ u.st = .ok ∧
      u.x.x0 = s.x.x0) ∧
  Reproduces .rdTimestamp .wrTimestamp 10 ∧ Reproduces .rdPortid .wrPortid 10 ∧ Reproduces .rdClockid .wrClockid 8

/-! ### System commands -/

/-- R210: the parameter registers together, or none. -/
def Obligations.UpdateParamsReplacesAllOrNone : Prop :=
  decode 0x40000000 = .ok .updateParams ∧ ∀ s : State,
    (255 < s.x.x0.toNat ∨ 255 < s.x.x1.toNat →
      exec .updateParams s = .next { s with x := { s.x with x0 := 0 }, st := .ok }) ∧
    (s.x.x0.toNat ≤ 255 ∧ s.x.x1.toNat ≤ 255 →
      exec .updateParams s = .next { s with
        x := { s.x with x0 := 1 }, st := .ok, pv := true,
        par := { domain := BitVec.ofNat 8 s.x.x0.toNat, hops := BitVec.ofNat 8 s.x.x1.toNat,
                 unicast := s.x.x2.getLsbD 0, linuxptp := s.x.x2.getLsbD 1, responder := s.x.x2.getLsbD 2,
                 ts := BitVec.ofNat 4 (s.x.x2.toNat / 16),
                 selfId := ⟨s.x.x3, BitVec.ofNat 16 s.x.x4.toNat⟩, target := ⟨s.x.x5, BitVec.ofNat 16 s.x.x6.toNat⟩ } })

/-- R211. -/
def Obligations.SetAllPortsTargetsAllPorts : Prop :=
  decode 0x41000000 = .ok .setAllPorts ∧ ∀ s : State,
    (s.pv = true → exec .setAllPorts s = .next { s with
      par := { s.par with target := ⟨BitVec.allOnes 64, BitVec.allOnes 16⟩ }, st := .ok }) ∧
    (s.pv = false → exec .setAllPorts s = .refused .parametersNotValid)

/-- R212: both halves must be all ones. -/
def Obligations.IsAllPortsNeedsBothHalves : Prop :=
  decode 0x42000000 = .ok .isAllPorts ∧ ∀ s : State,
    (s.pv = true → exec .isAllPorts s = .next { s with
      x := { s.x with
        x0 := if s.par.target.cid = BitVec.allOnes 64 ∧ s.par.target.port = BitVec.allOnes 16 then 1 else 0 },
      st := .ok }) ∧
    (s.pv = false → exec .isAllPorts s = .refused .parametersNotValid)

/-- R213. -/
def Obligations.SetActionValidatesAgainstTheRegistry : Prop :=
  (∀ (v : Bool) (act : BitVec 4) (id : BitVec 16),
    decode (0x43#8 ++ 0#3 ++ BitVec.ofBool v ++ act ++ id) = .ok (.setAction v act id)) ∧
  (∀ (v : Bool) (act : BitVec 4) (id : BitVec 16) (s : State), s.pv = false →
    exec (.setAction v act id) s = .refused .parametersNotValid) ∧
  (∀ (c : Impl) (v : Bool) (act : BitVec 4) (id : BitVec 16) (s : State), s.pv = true →
    ∃ t, setActionWith c v act id s = .next t ∧ SetActionEffect c v act id s t) ∧
  (∀ (v : Bool) (act : BitVec 4) (id : BitVec 16) (s : State), s.pv = true →
    ∃ t, exec (.setAction v act id) s = .next t ∧ SetActionEffect Config.impl v act id s t)

/-- R253: a disallowed action is turned away with nothing changed but `x[0]` and `ST`. -/
def Obligations.DisallowedActionsLeaveTheStateAlone : Prop :=
  ∀ (c : Impl) (v : Bool) (act : BitVec 4) (id : BitVec 16) (s : State), s.pv = true →
    (c.reg id = none ∨ 4 < act.toNat ∨ ∃ row, c.reg id = some row ∧ allowedAction row act = false) →
    setActionWith c v act id s = .next { s with x := { s.x with x0 := 0 }, st := .ok }

/-- R202: the action matrix, value by value. -/
def Obligations.ActionMatrixMirrorsTheRequest : Prop :=
  ∀ (row : Row) (act : BitVec 4), allowedAction row act = true ↔ MatrixAllows row act

/-- R203, value by value. -/
def Obligations.RoleCheckFollowsTheTable : Prop :=
  ∀ (c : Impl) (par : ParamRegs) (act : BitVec 4), checkReplyAction c par act = true ↔ RoleAccepts c par act

/-- R40, R328: while `PV = 0` the frame engine's commands but UPDATE_PARAMS are refused; and R221: BUILD and BUILD_CAP are
refused while `AV = 0`. Which ground is answered where several hold is the model's choice: log entry 9 (DESIGN CHOICE). -/
def Obligations.UnconfiguredCommandsAreRefused : Prop :=
  (∀ (s : State) (v : Bool) (act : BitVec 4) (id seq : BitVec 16), s.pv = false →
    ∀ i ∈ [Instr.setAllPorts, .isAllPorts, .setAction v act id, .build seq, .buildCap seq, .parse],
      exec i s = .refused .parametersNotValid) ∧
  (∀ (s : State) (seq : BitVec 16), s.pv = true → s.av = false →
    exec (.build seq) s = .refused .actionNotValid ∧ exec (.buildCap seq) s = .refused .actionNotValid)

/-! ### BUILD -/

/-- R220, R230: with parameters and an action BUILD completes; on OK `TX` holds the framed message and nothing beyond it
has changed. The header offsets are the parameters of R8. Where the ID has no registry row, a state R205 rules out, that
BUILD counts it as not gated is the model's choice: log entry 10 (DESIGN CHOICE). -/
def Obligations.BuildWritesTheFramedMessage : Prop :=
  (∀ seq : BitVec 16, decode (0x48#8 ++ 0#8 ++ seq) = .ok (.build seq)) ∧
  (∀ (seq : BitVec 16) (s : State), s.pv = false ∨ s.av = false → ∃ r, exec (.build seq) s = .refused r) ∧
  (∀ (c : Impl) (seq : BitVec 16) (s : State), s.pv = true → s.av = true →
    ∃ t, buildWith c seq s = .next t ∧ BuildEffect c c.txSize seq s t) ∧
  (∀ (seq : BitVec 16) (s : State), s.pv = true → s.av = true →
    ∃ t, exec (.build seq) s = .next t ∧ BuildEffect Config.impl Config.impl.txSize seq s t)

/-- R231: BUILD_CAP is BUILD with the capacity in `x[0]`, refused where that exceeds `TX_SIZE`. Where the ID has no registry
row, a state R205 rules out, that it counts as not gated is the model's choice: log entry 10 (DESIGN CHOICE). -/
def Obligations.BuildCapHonoursTheCapacity : Prop :=
  (∀ seq : BitVec 16, decode (0x49#8 ++ 0#8 ++ seq) = .ok (.buildCap seq)) ∧
  (∀ (c : Impl) (seq : BitVec 16) (s : State), s.pv = true → s.av = true →
    (s.x.x0.toNat ≤ c.txSize → ∃ t, buildCapWith c seq s = .next t ∧ BuildEffect c s.x.x0.toNat seq s t) ∧
    (c.txSize < s.x.x0.toNat → buildCapWith c seq s = .refused .lengthBeyondBuffer)) ∧
  (∀ (seq : BitVec 16) (s : State), s.pv = true → s.av = true →
    (s.x.x0.toNat ≤ Config.impl.txSize →
      ∃ t, exec (.buildCap seq) s = .next t ∧ BuildEffect Config.impl s.x.x0.toNat seq s t) ∧
    (Config.impl.txSize < s.x.x0.toNat → exec (.buildCap seq) s = .refused .lengthBeyondBuffer))

/-- R223, R224: at the header offsets R8 recommends, and with an action the registry allows (R205), a message that fits is
built, the fields of its PTP header one after the other as R223 writes them; by BUILD, and by BUILD_CAP within `x[0]`. -/
def Obligations.BuildWritesTheHeaderInOrder : Prop :=
  ∀ (c : Impl) (seq : BitVec 16) (s : State) (data : List Octet),
    c.header = .recommended → s.pv = true → s.av = true → ActionOk c s → ¬ GatedId c s.par s.act.id →
    c.procBuild s.act.id s.act.action (dataOffered s) = .ok data →
    let msg := orderedMessage s.par s.act.action s.act.id seq data
    (msg.length ≤ c.txSize →
      ∃ t, buildWith c seq s = .next t ∧ t.st = .ok ∧ t.x.x0 = BitVec.ofNat 64 msg.length ∧ Stores s.tx t.tx 0 msg) ∧
    (msg.length ≤ s.x.x0.toNat → s.x.x0.toNat ≤ c.txSize →
      ∃ t, buildCapWith c seq s = .next t ∧ t.st = .ok ∧ t.x.x0 = BitVec.ofNat 64 msg.length ∧ Stores s.tx t.tx 0 msg)

/-- R232: after every successful build the `lengthField` is even and `messageLength` is the length in `x[0]`. -/
def Obligations.BuiltMessagesHaveEvenConsistentLengths : Prop :=
  ∀ (c : Impl) (seq : BitVec 16) (s t : State),
    (buildWith c seq s = .next t ∨ buildCapWith c seq s = .next t) → t.st = .ok →
    wireValue t.tx 48 2 = 1 ∧ wireValue t.tx 50 2 % 2 = 0 ∧ wireValue t.tx 50 2 = t.x.x0.toNat - 52 ∧
    wireValue t.tx c.header.offMsgLen 2 = t.x.x0.toNat ∧ 54 ≤ t.x.x0.toNat ∧ t.x.x0.toNat % 2 = 0

/-! ### PARSE -/

/-- R251, R249: given its preconditions PARSE completes, with the code of the first test that fails. -/
def Obligations.ParseReturnsTheFirstFailingTest : Prop :=
  (∀ (c : Impl) (s : State), s.pv = true →
    (s.x.x0.toNat ≤ c.rxSize → ∃ t, parseWith c s = .next t ∧ ParseEffect c s t) ∧
    (c.rxSize < s.x.x0.toNat → parseWith c s = .refused .lengthBeyondBuffer)) ∧
  (∀ s : State, s.pv = true → s.x.x0.toNat ≤ Config.impl.rxSize →
    ∃ t, exec .parse s = .next t ∧ ParseEffect Config.impl s t)

/-- R66: what the result registers hold after PARSE, by its code. Nothing is said of the registers R66 leaves unspecified. -/
def Obligations.ParseDefinesTheResultRegisters : Prop :=
  ∀ (c : Impl) (s t : State), parseWith c s = .next t →
    t.res.perr = t.st ∧
    (t.st = .ok → HeaderDefined c.header s.rx t.res ∧
      (s.x.x0.toNat = 48 → t.res.hasTlv = false ∧ t.res.tlvIdValid = false ∧ t.res.dataValid = false) ∧
      (s.x.x0.toNat ≠ 48 → t.res.hasTlv = true ∧ t.res.tlvType = 1 ∧ t.res.tlvIdValid = true ∧
        t.res.tlvId.toNat = wireValue s.rx 52 2 ∧ (t.res.dataValid = true ↔ t.res.action ≠ 0) ∧
        (t.res.action ≠ 0 → c.procParse t.res.tlvId t.res.action
          ((List.range (wireValue s.rx 50 2 - 2)).map fun j => s.rx.read (54 + j)) = .ok t.res.data))) ∧
    (t.st = .msg → HeaderDefined c.header s.rx t.res ∧ t.res.hasTlv = true ∧ t.res.tlvType = 2 ∧ t.res.tlvIdValid = false ∧
      t.res.dataValid = false ∧ t.res.errId.toNat = wireValue s.rx 52 2 ∧ t.res.errMid.toNat = wireValue s.rx 54 2 ∧
      t.res.displayLen.toNat = (if wireValue s.rx 50 2 = 8 then 0 else (s.rx.read 60).toNat) ∧
      ∀ j < t.res.displayLen.toNat, t.disp.read j = s.rx.read (61 + j)) ∧
    (t.st ≠ .ok → t.st ≠ .msg → t.res.tlvIdValid = false ∧ t.res.dataValid = false)

/-- R254: a message PARSE accepts, cut by its last octet, returns `TOO_SMALL`. -/
def Obligations.TruncatedMessagesAreTooSmall : Prop :=
  ∀ (c : Impl) (s t : State), parseWith c s = .next t → t.st = .ok ∨ t.st = .msg →
    ∃ u, parseWith c { s with x := { s.x with x0 := s.x.x0 - 1 } } = .next u ∧ u.st = .tooSmall

/-- R256: an ID of 0xFFFF the registry does not know returns `INVALID_ID`, whatever the action. -/
def Obligations.UnknownIdIsInvalid : Prop :=
  ∀ (c : Impl) (s : State), c.reg 0xFFFF = none → s.pv = true → s.x.x0.toNat ≤ c.rxSize →
    ManagementPasses c.header s.rx s.x.x0.toNat → wireValue s.rx 52 2 = 0xFFFF →
    ∃ t, parseWith c s = .next t ∧ t.st = .invalidId

/-- R257: an odd `lengthField` returns `SIZE`, whether or not it also overruns the message. -/
def Obligations.OddLengthFieldReturnsSize : Prop :=
  ∀ (c : Impl) (s : State), s.pv = true → s.x.x0.toNat ≤ c.rxSize → HeaderPasses c.header s.rx s.x.x0.toNat →
    52 ≤ s.x.x0.toNat → (wireValue s.rx 48 2 = 1 ∨ wireValue s.rx 48 2 = 2) → wireValue s.rx 50 2 % 2 = 1 →
    ∃ t, parseWith c s = .next t ∧ t.st = .size

/-- R203, R242: with the ID known and not gated, an action the role rejects returns `ACTION`; with the ID unknown or gated
PARSE returns `INVALID_ID` whatever the action. -/
def Obligations.RejectedRolesReturnAction : Prop :=
  ∀ (c : Impl) (s : State), s.pv = true → s.x.x0.toNat ≤ c.rxSize → ManagementPasses c.header s.rx s.x.x0.toNat →
    let id : BitVec 16 := BitVec.ofNat 16 (wireValue s.rx 52 2)
    let act : BitVec 4 := BitVec.ofNat 4 (s.rx.read 46).toNat
    ((c.reg id).isSome = true → ¬ GatedId c s.par id → ¬ RoleAccepts c s.par act →
      ∃ t, parseWith c s = .next t ∧ t.st = .action) ∧
    (c.reg id = none ∨ GatedId c s.par id → ∃ t, parseWith c s = .next t ∧ t.st = .invalidId)

/-- R258, with the gate closed: SET_ACTION returns false, BUILD and BUILD_CAP `UNSUPPORT`, PARSE `INVALID_ID`. -/
def Obligations.ClosedGateTurnsTheIdAway : Prop :=
  ∀ (c : Impl) (id : BitVec 16) (row : Row) (s : State), c.reg id = some row → row.linuxptpOnly = true →
    s.pv = true → s.par.linuxptp = false →
    (∀ v act, setActionWith c v act id s = .next { s with x := { s.x with x0 := 0 }, st := .ok }) ∧
    (s.av = true → s.act.id = id → ∀ seq, ∃ t, buildWith c seq s = .next t ∧ t.st = .unsupport) ∧
    (s.av = true → s.act.id = id → s.x.x0.toNat ≤ c.txSize →
      ∀ seq, ∃ t, buildCapWith c seq s = .next t ∧ t.st = .unsupport) ∧
    (s.x.x0.toNat ≤ c.rxSize → ManagementPasses c.header s.rx s.x.x0.toNat → wireValue s.rx 52 2 = id.toNat →
      ∃ t, parseWith c s = .next t ∧ t.st = .invalidId)

/-- R255: BUILD, then PARSE of its own output on a side that accepts the action, gives the ID, action, sequence, peer,
unicast flag and value back; and building the decoded value again gives the same octets. The premises on `PROC` are those
of R268, for this ID, action and value. -/
def Obligations.ParseOfBuildGivesTheValueBack : Prop :=
  ∀ (c : Impl) (seq : BitVec 16) (s t u : State) (row : Row) (data : List Octet) (v : Val),
    ActionOk c s → buildWith c seq s = .next t → t.st = .ok →
    c.reg s.act.id = some row → (∀ k, row.size = .fixed k → data.length = k) →
    c.procBuild s.act.id s.act.action (dataOffered s) = .ok data →
    c.procParse s.act.id s.act.action (data ++ padOf data) = .ok v →
    c.procBuild s.act.id s.act.action (some v) = .ok data →
    u.pv = true → u.par.linuxptp = s.par.linuxptp → s.act.action ≠ 0 → RoleAccepts c u.par s.act.action →
    u.x.x0 = t.x.x0 → u.x.x0.toNat ≤ c.rxSize → (∀ a < u.x.x0.toNat, u.rx.read a = t.tx.read a) →
    (∃ w, parseWith c u = .next w ∧ w.st = .ok ∧ w.res.tlvIdValid = true ∧ w.res.tlvId = s.act.id ∧
      w.res.action = s.act.action ∧ w.res.seq = seq ∧ w.res.peer = s.par.selfId ∧ w.res.unicast = s.par.unicast ∧
      w.res.dataValid = true ∧ w.res.data = v) ∧
    (∃ r, buildWith c seq { s with act := { s.act with dsValid := true, dataSend := v } } = .next r ∧ r.st = .ok ∧
      r.x.x0 = t.x.x0 ∧ ∀ a < t.x.x0.toNat, r.tx.read a = t.tx.read a)

/-! ### Invariants -/

/-- R321: the values the spec gives for reset, and R38, R205, R82 hold there. -/
def Obligations.ResetHoldsTheSpecifiedValues : Prop :=
  State.reset.st = .ok ∧ State.reset.dir = .idle ∧ State.reset.pv = false ∧ State.reset.av = false ∧
  State.reset.res.perr = .ok ∧ State.reset.res.hasTlv = false ∧ State.reset.res.tlvIdValid = false ∧
  State.reset.res.dataValid = false

/-- The invariant holds right after reset, for any parameters. -/
def Obligations.ResetIsSound : Prop := ∀ c : Impl, Sound c State.reset

/-- Every step keeps the invariant: the cursor stays inside its buffer (R38), a valid action stays one the registry allows
(R205), the result valid bits stay consistent (R66), the memories keep their form and their size (R82). -/
def Obligations.EveryStepKeepsTheInvariant : Prop :=
  ∀ s t : State, Sound Config.impl s → step s = .next t → Sound Config.impl t

/-- R38 alone: the commands that open a window establish that it lies inside its buffer, so within 65535 octets, and every
command preserves that. -/
def Obligations.CommandsKeepTheWindowInsideItsBuffer : Prop :=
  ∀ (i : Instr) (s t : State), i = .openRd ∨ i = .openWr ∨ WindowOk Config.impl s → exec i s = .next t →
    WindowOk Config.impl t ∧ (t.dir ≠ .idle → t.lim.toNat ≤ 65535)

/-- R205 alone: every command keeps a valid action one the registry allows for its ID. -/
def Obligations.CommandsKeepTheActionAllowed : Prop :=
  ∀ (i : Instr) (s t : State), ActionOk Config.impl s → exec i s = .next t → ActionOk Config.impl t

/-! ### What no command changes -/

/-- R89, R73: no command writes `RX`; `DISP` and the result registers change by PARSE only; `TX` by the write commands,
BUILD and BUILD_CAP only. -/
def Obligations.MemoriesChangeOnlyByTheirCommands : Prop :=
  ∀ (i : Instr) (s t : State), exec i s = .next t →
    t.rx = s.rx ∧ (i ≠ .parse → t.disp = s.disp ∧ t.res = s.res) ∧
    (i ∉ writeCommands → (∀ seq, i ≠ .build seq ∧ i ≠ .buildCap seq) → t.tx = s.tx)

/-- R49: the parameter registers are written only by UPDATE_PARAMS, and by SET_ALL_PORTS the target alone; the host cannot
write them. -/
def Obligations.ParametersChangeOnlyByTheirCommands : Prop :=
  (∀ (i : Instr) (s t : State), exec i s = .next t →
    (i ≠ .updateParams → i ≠ .setAllPorts → t.par = s.par) ∧
    (i = .setAllPorts → t.par = { s.par with target := t.par.target })) ∧
  (∀ (number : BitVec 8) (v : Word64) (s t : State), hostWriteRegister number v s = .next t → t.par = s.par)

/-- R51 to R53, R336: the action registers change only by a SET_ACTION that returns true. -/
def Obligations.ActionChangesOnlyByAnAcceptedSetAction : Prop :=
  ∀ (i : Instr) (s t : State), exec i s = .next t →
    (t.act = s.act ∧ t.av = s.av) ∨ ∃ v act id, i = .setAction v act id ∧ t.x.x0 = 1

/-- R40, R50: `PV` and `AV`, once set, are never cleared, by any step. -/
def Obligations.ValidBitsAreNeverCleared : Prop :=
  ∀ s t : State, step s = .next t → (s.pv = true → t.pv = true) ∧ (s.av = true → t.av = true)

/-- R31: the engine writes only the general registers a command names as results. -/
def Obligations.GeneralRegistersChangeOnlyAsResults : Prop :=
  ∀ (i : Instr) (s t : State), exec i s = .next t →
    (i ∉ [Instr.rdTimestamp, .rdPortid] → t.x.x1 = s.x.x1) ∧
    (i ∈ [Instr.openRd, .openWr, .close, .setAllPorts, .parse] ∨ i ∈ writeCommands → t.x.x0 = s.x.x0) ∧
    t.x = { s.x with x0 := t.x.x0, x1 := t.x.x1 }

/-- R293: each command returns only the codes of its row. -/
def Obligations.CommandsReturnOnlyTheirCodes : Prop :=
  ∀ (i : Instr) (s t : State), exec i s = .next t → t.st ∈ codesOf i

/-- R7: a command completes or is refused; there is no third outcome. -/
def Obligations.NoCommandFaults : Prop := ∀ (i : Instr) (s : State) (f : Fault), exec i s ≠ .fault f

/-- R295: a command is refused in the listed cases and in no other. -/
def Obligations.CommandsAreRefusedExactlyAsListed : Prop :=
  ∀ (i : Instr) (s : State), (∃ r, exec i s = .refused r) ↔
    (i ∈ readCommands ∧ s.dir ≠ .parse) ∨ (i ∈ writeCommands ∧ s.dir ≠ .build) ∨
    (i = .openRd ∧ Config.impl.rxSize < s.x.x0.toNat + s.x.x1.toNat) ∨
    (i = .openWr ∧ Config.impl.txSize < s.x.x0.toNat + s.x.x1.toNat) ∨
    (NeedsParameters i ∧ s.pv = false) ∨ (IsBuild i ∧ s.av = false) ∨
    ((∃ seq, i = .buildCap seq) ∧ Config.impl.txSize < s.x.x0.toNat) ∨
    (i = .parse ∧ Config.impl.rxSize < s.x.x0.toNat)
end

