-- ==== Sys2Proof/Laws/Bytes.lean ====
section
/-! SUPPORT. The maps between integers and octet strings are inverse to each other (00_scope.md R14), and sign extension is
the formula of 40_primitive_codec.md R153. -/

namespace Sys2Proof.Machine

@[simp] theorem bytesBE_length (k : Nat) (v : Word64) : (bytesBE k v).length = k := by
  induction k with
  | zero => rfl
  | succ k ih => simp [bytesBE, ih]

@[simp] theorem bytesLE_length (k : Nat) (v : Word64) : (bytesLE k v).length = k := by
  induction k generalizing v with
  | zero => rfl
  | succ k ih => simp [bytesLE, ih]

theorem beNat_lt (o : List Octet) : beNat o < 256 ^ o.length := by
  induction o with
  | nil => simp [beNat]
  | cons a o ih =>
    have ha := a.isLt
    simp only [beNat, List.length_cons, Nat.pow_succ]
    have : a.toNat * 256 ^ o.length + 256 ^ o.length ≤ 256 ^ o.length * 256 := by
      calc a.toNat * 256 ^ o.length + 256 ^ o.length = (a.toNat + 1) * 256 ^ o.length := by ring
        _ ≤ 256 * 256 ^ o.length := Nat.mul_le_mul_right _ (by omega)
        _ = 256 ^ o.length * 256 := by ring
    omega

theorem leNat_lt (o : List Octet) : leNat o < 256 ^ o.length := by
  induction o with
  | nil => simp [leNat]
  | cons a o ih =>
    have ha := a.isLt
    simp only [leNat, List.length_cons, Nat.pow_succ]
    omega

/-- The octets of `v` have the value of its low `8k` bits. -/
theorem beNat_bytesBE (k : Nat) (v : Word64) : beNat (bytesBE k v) = v.toNat % 256 ^ k := by
  induction k with
  | zero => simp [bytesBE, beNat, Nat.mod_one]
  | succ k ih =>
    have h : (2 : Nat) ^ (8 * k) = 256 ^ k := by rw [Nat.pow_mul]
    simp only [bytesBE, beNat, bytesBE_length, ih, BitVec.toNat_setWidth, BitVec.toNat_ushiftRight,
      Nat.shiftRight_eq_div_pow, h]
    have e : v.toNat % (256 ^ k * 256) = v.toNat % 256 ^ k + 256 ^ k * (v.toNat / 256 ^ k % 256) := Nat.mod_mul
    rw [pow_succ 256 k, e]
    ring

theorem leNat_bytesLE (k : Nat) (v : Word64) : leNat (bytesLE k v) = v.toNat % 256 ^ k := by
  induction k generalizing v with
  | zero => simp [bytesLE, leNat, Nat.mod_one]
  | succ k ih =>
    simp only [bytesLE, leNat, ih, BitVec.toNat_setWidth, BitVec.toNat_ushiftRight, Nat.shiftRight_eq_div_pow]
    have e : v.toNat % (256 * 256 ^ k) = v.toNat % 256 + 256 * (v.toNat / 256 % 256 ^ k) := Nat.mod_mul
    rw [pow_succ 256 k, Nat.mul_comm (256 ^ k) 256, e]

/-- Octet strings of one length and one value are the same. -/
theorem beNat_inj {o p : List Octet} (hl : o.length = p.length) (h : beNat o = beNat p) : o = p := by
  induction o generalizing p with
  | nil => cases p with
    | nil => rfl
    | cons _ _ => simp at hl
  | cons a o ih =>
    cases p with
    | nil => simp at hl
    | cons b p =>
      simp only [List.length_cons, Nat.add_right_cancel_iff] at hl
      have ho := beNat_lt o
      have hp := beNat_lt p
      simp only [beNat, hl] at h ho
      have hpos : 0 < 256 ^ p.length := Nat.pow_pos (by omega)
      have hab : a.toNat = b.toNat := by
        have h1 := congrArg (· / 256 ^ p.length) h
        simp only [Nat.mul_comm _ (256 ^ p.length), Nat.mul_add_div hpos, Nat.div_eq_of_lt ho, Nat.div_eq_of_lt hp] at h1
        omega
      have : a = b := BitVec.eq_of_toNat_eq hab
      subst this
      rw [ih hl (by omega)]

theorem leNat_inj {o p : List Octet} (hl : o.length = p.length) (h : leNat o = leNat p) : o = p := by
  induction o generalizing p with
  | nil => cases p with
    | nil => rfl
    | cons _ _ => simp at hl
  | cons a o ih =>
    cases p with
    | nil => simp at hl
    | cons b p =>
      simp only [List.length_cons, Nat.add_right_cancel_iff] at hl
      have ha := a.isLt
      have hb := b.isLt
      simp only [leNat] at h
      have : a = b := BitVec.eq_of_toNat_eq (by omega)
      subst this
      rw [ih hl (by omega)]

/-- A string of at most eight octets is the octets of its value. -/
theorem bytesBE_beNat (o : List Octet) (h : o.length ≤ 8) : bytesBE o.length (BitVec.ofNat 64 (beNat o)) = o := by
  have hlt := beNat_lt o
  have h64 : 256 ^ o.length ≤ 2 ^ 64 := by
    calc 256 ^ o.length ≤ 256 ^ 8 := Nat.pow_le_pow_right (by omega) h
      _ = 2 ^ 64 := by norm_num
  refine beNat_inj (by simp) ?_
  rw [beNat_bytesBE, BitVec.toNat_ofNat, Nat.mod_eq_of_lt (by omega : beNat o < 2 ^ 64), Nat.mod_eq_of_lt hlt]

theorem bytesLE_leNat (o : List Octet) (h : o.length ≤ 8) : bytesLE o.length (BitVec.ofNat 64 (leNat o)) = o := by
  have hlt := leNat_lt o
  have h64 : 256 ^ o.length ≤ 2 ^ 64 := by
    calc 256 ^ o.length ≤ 256 ^ 8 := Nat.pow_le_pow_right (by omega) h
      _ = 2 ^ 64 := by norm_num
  refine leNat_inj (by simp) ?_
  rw [leNat_bytesLE, BitVec.toNat_ofNat, Nat.mod_eq_of_lt (by omega : leNat o < 2 ^ 64), Nat.mod_eq_of_lt hlt]

/-- Sign extension is the formula of R153. -/
theorem signExtended_eq (n u : Nat) (hn : 0 < n) (hn' : n ≤ 64) (hu : u < 2 ^ n) :
    signExtended n u = if u < 2 ^ (n - 1) then BitVec.ofNat 64 u else BitVec.ofNat 64 (u + 2 ^ 64 - 2 ^ n) := by
  have h2 : 2 ^ n = 2 * 2 ^ (n - 1) := by
    obtain ⟨k, rfl⟩ : ∃ k, n = k + 1 := ⟨n - 1, by omega⟩
    simp [pow_succ, Nat.mul_comm]
  have h64 : 2 ^ n ≤ 2 ^ 64 := Nat.pow_le_pow_right (by omega) hn'
  have hm : (BitVec.ofNat n u).msb = decide (2 ^ (n - 1) ≤ u) := by
    rw [BitVec.msb_eq_decide]
    simp [Nat.mod_eq_of_lt hu]
  apply BitVec.eq_of_toNat_eq
  rw [signExtended, BitVec.toNat_signExtend, hm]
  by_cases h : u < 2 ^ (n - 1)
  · simp [h, Nat.not_le.mpr h, Nat.mod_eq_of_lt hu]
  · simp only [h, if_false, BitVec.toNat_setWidth, BitVec.toNat_ofNat, Nat.mod_eq_of_lt hu, Nat.not_lt.mp h, decide_true,
      if_true]
    rw [Nat.mod_eq_of_lt (by omega : u < 2 ^ 64), Nat.mod_eq_of_lt (by omega : u + 2 ^ 64 - 2 ^ n < 2 ^ 64)]
    omega

end Sys2Proof.Machine
end

