-- ==== Sys2Proof/Laws/Decode.lean ====
section
/-! SUPPORT. The bits of an encoded word, and what each format's decoder accepts (30_encoding.md R100 to R102). -/

namespace Sys2Proof

theorem encode_append (i : Instr) : encode i = (opcodeOf i ++ immediateOf i : BitVec (8 + 24)) := rfl

theorem opcodeField_encode (i : Instr) : opcodeField (encode i) = opcodeOf i := by
  rw [encode_append, opcodeField]
  apply BitVec.eq_of_getLsbD_eq
  intro j hj
  show (BitVec.extractLsb' 24 8 (opcodeOf i ++ immediateOf i : BitVec (8 + 24))).getLsbD j = _
  rw [BitVec.getLsbD_extractLsb', BitVec.getLsbD_append]
  simp [hj]

theorem getLsbD_encode (i : Instr) {a : Nat} (h : a < 24) : (encode i).getLsbD a = (immediateOf i).getLsbD a := by
  rw [encode_append]
  show BitVec.getLsbD (w := 8 + 24) _ a = _
  rw [BitVec.getLsbD_append]; simp [h]

theorem extract_encode (i : Instr) (a n : Nat) (h : a + n ≤ 24) : (encode i).extractLsb' a n =
    (immediateOf i).extractLsb' a n := by
  apply BitVec.eq_of_getLsbD_eq
  intro j hj
  rw [BitVec.getLsbD_extractLsb', BitVec.getLsbD_extractLsb', getLsbD_encode i (by omega)]

theorem word_of_fields (w : CommandWord) : w = (opcodeField w ++ w.extractLsb' 0 24 : BitVec (8 + 24)) := by
  apply BitVec.eq_of_getLsbD_eq
  intro j hj
  show _ = BitVec.getLsbD (w := 8 + 24) _ j
  rw [BitVec.getLsbD_append]
  unfold opcodeField
  by_cases h : j < 24
  · simp [h]
  · simp [h, show j - 24 < 8 by omega, show 24 + (j - 24) = j by omega]

/-- The immediate of SET_ACTION bit by bit (R102). -/
theorem getLsbD_immediate_setAction (v : Bool) (act : BitVec 4) (id : BitVec 16) (a : Nat) :
    (immediateOf (.setAction v act id)).getLsbD a =
   if a < 16 then id.getLsbD a else if a < 20 then act.getLsbD (a - 16) else a == 20 && v := by
  show BitVec.getLsbD (w := 3 + 1 + 4 + 16) (0#3 ++ BitVec.ofBool v ++ act ++ id) a = _
  rw [BitVec.getLsbD_append]; split
  · rfl
  show BitVec.getLsbD (w := 3 + 1 + 4) _ _ = _
  rw [BitVec.getLsbD_append]
  by_cases h : a - 16 < 4
  · simp [h, show a < 20 by omega]
  · rw [if_neg h, if_neg (by omega)]
    show BitVec.getLsbD (w := 3 + 1) _ _ = _
    rw [BitVec.getLsbD_append]
    by_cases h' : a = 20
    · simp [h']
    · have : ¬ (a - 16 - 4 < 1) := by omega
      simp [this, h']

/-- The immediate of BUILD bit by bit (R102). -/
theorem getLsbD_immediate_build (seq : BitVec 16) (a : Nat) : (immediateOf (.build seq)).getLsbD a = seq.getLsbD a := by
  show BitVec.getLsbD (w := 8 + 16) (0#8 ++ seq) a = _
  rw [BitVec.getLsbD_append]; split
  · rfl
  · rw [BitVec.getLsbD_zero, BitVec.getLsbD_of_ge _ _ (by omega)]

theorem decodePlain_ok {w : CommandWord} {i j : Instr} (h : decodePlain w i = .ok j) : w.extractLsb' 0 24 = 0 ∧ j =
    i := by
  unfold decodePlain at h; split at h
  · cases h; exact ⟨by assumption, rfl⟩
  · cases h

theorem decodeSeq_ok {w : CommandWord} {i : BitVec 16 → Instr} {j : Instr} (h : decodeSeq w i = .ok j) : w.extractLsb'
    16 8 = 0 ∧ j = i (w.extractLsb' 0 16) := by
  unfold decodeSeq at h; split at h
  · cases h; exact ⟨by assumption, rfl⟩
  · cases h

theorem decodeAction_ok {w : CommandWord} {i : Bool → BitVec 4 → BitVec 16 → Instr} {j : Instr}
    (h : decodeAction w i = .ok j) : w.extractLsb' 21 3 = 0 ∧ j = i (w.getLsbD 20) (w.extractLsb' 16 4)
    (w.extractLsb' 0 16) := by
  unfold decodeAction at h; split at h
  · cases h; exact ⟨by assumption, rfl⟩
  · cases h

theorem bit_of_zero {w : CommandWord} {a n : Nat} (h : w.extractLsb' a n = 0) {j : Nat} (h1 : a ≤ j) (h2 : j < a + n)
    : w.getLsbD j = false := by
  have := congrArg (BitVec.getLsbD · (j - a)) h
  simp only [BitVec.getLsbD_extractLsb', show a + (j - a) = j by omega, show j - a < n by omega] at this
  simpa using this

end Sys2Proof
end

