-- ==== Sys2Proof/Laws/State.lean ====
section
/-! SUPPORT. One lemma per field per update of State, and per field of the shared operations that move the cursor, so that no
proof unfolds a record update. -/

namespace Sys2Proof.Machine

/-! ### General registers -/

@[simp] theorem XRegs.get_set_same (r : XRegs) (i : Fin 8) (v : Word64) : (r.set i v).get i = v := by
  fin_cases i <;> rfl

theorem XRegs.get_set_ne (r : XRegs) {i j : Fin 8} (v : Word64) (h : j ≠ i) : (r.set i v).get j = r.get j := by
  fin_cases i <;> fin_cases j <;> first | rfl | exact absurd rfl h

@[simp] theorem State.readX_0 (s : State) : s.readX 0 = s.x.x0 := rfl
@[simp] theorem State.readX_1 (s : State) : s.readX 1 = s.x.x1 := rfl
@[simp] theorem State.readX_2 (s : State) : s.readX 2 = s.x.x2 := rfl
@[simp] theorem State.readX_3 (s : State) : s.readX 3 = s.x.x3 := rfl
@[simp] theorem State.readX_4 (s : State) : s.readX 4 = s.x.x4 := rfl
@[simp] theorem State.readX_5 (s : State) : s.readX 5 = s.x.x5 := rfl
@[simp] theorem State.readX_6 (s : State) : s.readX 6 = s.x.x6 := rfl
@[simp] theorem State.readX_7 (s : State) : s.readX 7 = s.x.x7 := rfl
@[simp] theorem XRegs.set_0 (r : XRegs) (v : Word64) : r.set 0 v = { r with x0 := v } := rfl
@[simp] theorem XRegs.set_1 (r : XRegs) (v : Word64) : r.set 1 v = { r with x1 := v } := rfl
@[simp] theorem XRegs.set_2 (r : XRegs) (v : Word64) : r.set 2 v = { r with x2 := v } := rfl
@[simp] theorem XRegs.set_3 (r : XRegs) (v : Word64) : r.set 3 v = { r with x3 := v } := rfl
@[simp] theorem XRegs.set_4 (r : XRegs) (v : Word64) : r.set 4 v = { r with x4 := v } := rfl
@[simp] theorem XRegs.set_5 (r : XRegs) (v : Word64) : r.set 5 v = { r with x5 := v } := rfl
@[simp] theorem XRegs.set_6 (r : XRegs) (v : Word64) : r.set 6 v = { r with x6 := v } := rfl
@[simp] theorem XRegs.set_7 (r : XRegs) (v : Word64) : r.set 7 v = { r with x7 := v } := rfl

/-! ### writeX -/

@[simp] theorem State.writeX_x (s : State) (i : Fin 8) (v : Word64) : (s.writeX i v).x = s.x.set i v := rfl
@[simp] theorem State.writeX_st (s : State) (i : Fin 8) (v : Word64) : (s.writeX i v).st = s.st := rfl
@[simp] theorem State.writeX_dir (s : State) (i : Fin 8) (v : Word64) : (s.writeX i v).dir = s.dir := rfl
@[simp] theorem State.writeX_cur (s : State) (i : Fin 8) (v : Word64) : (s.writeX i v).cur = s.cur := rfl
@[simp] theorem State.writeX_lim (s : State) (i : Fin 8) (v : Word64) : (s.writeX i v).lim = s.lim := rfl
@[simp] theorem State.writeX_pv (s : State) (i : Fin 8) (v : Word64) : (s.writeX i v).pv = s.pv := rfl
@[simp] theorem State.writeX_par (s : State) (i : Fin 8) (v : Word64) : (s.writeX i v).par = s.par := rfl
@[simp] theorem State.writeX_av (s : State) (i : Fin 8) (v : Word64) : (s.writeX i v).av = s.av := rfl
@[simp] theorem State.writeX_act (s : State) (i : Fin 8) (v : Word64) : (s.writeX i v).act = s.act := rfl
@[simp] theorem State.writeX_res (s : State) (i : Fin 8) (v : Word64) : (s.writeX i v).res = s.res := rfl
@[simp] theorem State.writeX_rx (s : State) (i : Fin 8) (v : Word64) : (s.writeX i v).rx = s.rx := rfl
@[simp] theorem State.writeX_tx (s : State) (i : Fin 8) (v : Word64) : (s.writeX i v).tx = s.tx := rfl
@[simp] theorem State.writeX_disp (s : State) (i : Fin 8) (v : Word64) : (s.writeX i v).disp = s.disp := rfl
@[simp] theorem State.writeX_host (s : State) (i : Fin 8) (v : Word64) : (s.writeX i v).host = s.host := rfl
@[simp] theorem State.writeX_portOut (s : State) (i : Fin 8) (v : Word64) : (s.writeX i v).portOut = s.portOut := rfl
@[simp] theorem State.writeX_draws (s : State) (i : Fin 8) (v : Word64) : (s.writeX i v).draws = s.draws := rfl

/-! ### withStatus -/

@[simp] theorem State.withStatus_x (s : State) (c : Code) : (s.withStatus c).x = s.x := rfl
@[simp] theorem State.withStatus_st (s : State) (c : Code) : (s.withStatus c).st = c := rfl
@[simp] theorem State.withStatus_dir (s : State) (c : Code) : (s.withStatus c).dir = s.dir := rfl
@[simp] theorem State.withStatus_cur (s : State) (c : Code) : (s.withStatus c).cur = s.cur := rfl
@[simp] theorem State.withStatus_lim (s : State) (c : Code) : (s.withStatus c).lim = s.lim := rfl
@[simp] theorem State.withStatus_pv (s : State) (c : Code) : (s.withStatus c).pv = s.pv := rfl
@[simp] theorem State.withStatus_par (s : State) (c : Code) : (s.withStatus c).par = s.par := rfl
@[simp] theorem State.withStatus_av (s : State) (c : Code) : (s.withStatus c).av = s.av := rfl
@[simp] theorem State.withStatus_act (s : State) (c : Code) : (s.withStatus c).act = s.act := rfl
@[simp] theorem State.withStatus_res (s : State) (c : Code) : (s.withStatus c).res = s.res := rfl
@[simp] theorem State.withStatus_rx (s : State) (c : Code) : (s.withStatus c).rx = s.rx := rfl
@[simp] theorem State.withStatus_tx (s : State) (c : Code) : (s.withStatus c).tx = s.tx := rfl
@[simp] theorem State.withStatus_disp (s : State) (c : Code) : (s.withStatus c).disp = s.disp := rfl
@[simp] theorem State.withStatus_host (s : State) (c : Code) : (s.withStatus c).host = s.host := rfl
@[simp] theorem State.withStatus_portOut (s : State) (c : Code) : (s.withStatus c).portOut = s.portOut := rfl
@[simp] theorem State.withStatus_draws (s : State) (c : Code) : (s.withStatus c).draws = s.draws := rfl

/-! ### withDir -/

@[simp] theorem State.withDir_x (s : State) (d : Dir) : (s.withDir d).x = s.x := rfl
@[simp] theorem State.withDir_st (s : State) (d : Dir) : (s.withDir d).st = s.st := rfl
@[simp] theorem State.withDir_dir (s : State) (d : Dir) : (s.withDir d).dir = d := rfl
@[simp] theorem State.withDir_cur (s : State) (d : Dir) : (s.withDir d).cur = s.cur := rfl
@[simp] theorem State.withDir_lim (s : State) (d : Dir) : (s.withDir d).lim = s.lim := rfl
@[simp] theorem State.withDir_pv (s : State) (d : Dir) : (s.withDir d).pv = s.pv := rfl
@[simp] theorem State.withDir_par (s : State) (d : Dir) : (s.withDir d).par = s.par := rfl
@[simp] theorem State.withDir_av (s : State) (d : Dir) : (s.withDir d).av = s.av := rfl
@[simp] theorem State.withDir_act (s : State) (d : Dir) : (s.withDir d).act = s.act := rfl
@[simp] theorem State.withDir_res (s : State) (d : Dir) : (s.withDir d).res = s.res := rfl
@[simp] theorem State.withDir_rx (s : State) (d : Dir) : (s.withDir d).rx = s.rx := rfl
@[simp] theorem State.withDir_tx (s : State) (d : Dir) : (s.withDir d).tx = s.tx := rfl
@[simp] theorem State.withDir_disp (s : State) (d : Dir) : (s.withDir d).disp = s.disp := rfl
@[simp] theorem State.withDir_host (s : State) (d : Dir) : (s.withDir d).host = s.host := rfl
@[simp] theorem State.withDir_portOut (s : State) (d : Dir) : (s.withDir d).portOut = s.portOut := rfl
@[simp] theorem State.withDir_draws (s : State) (d : Dir) : (s.withDir d).draws = s.draws := rfl

/-! ### withCur -/

@[simp] theorem State.withCur_x (s : State) (a : BitVec 32) : (s.withCur a).x = s.x := rfl
@[simp] theorem State.withCur_st (s : State) (a : BitVec 32) : (s.withCur a).st = s.st := rfl
@[simp] theorem State.withCur_dir (s : State) (a : BitVec 32) : (s.withCur a).dir = s.dir := rfl
@[simp] theorem State.withCur_cur (s : State) (a : BitVec 32) : (s.withCur a).cur = a := rfl
@[simp] theorem State.withCur_lim (s : State) (a : BitVec 32) : (s.withCur a).lim = s.lim := rfl
@[simp] theorem State.withCur_pv (s : State) (a : BitVec 32) : (s.withCur a).pv = s.pv := rfl
@[simp] theorem State.withCur_par (s : State) (a : BitVec 32) : (s.withCur a).par = s.par := rfl
@[simp] theorem State.withCur_av (s : State) (a : BitVec 32) : (s.withCur a).av = s.av := rfl
@[simp] theorem State.withCur_act (s : State) (a : BitVec 32) : (s.withCur a).act = s.act := rfl
@[simp] theorem State.withCur_res (s : State) (a : BitVec 32) : (s.withCur a).res = s.res := rfl
@[simp] theorem State.withCur_rx (s : State) (a : BitVec 32) : (s.withCur a).rx = s.rx := rfl
@[simp] theorem State.withCur_tx (s : State) (a : BitVec 32) : (s.withCur a).tx = s.tx := rfl
@[simp] theorem State.withCur_disp (s : State) (a : BitVec 32) : (s.withCur a).disp = s.disp := rfl
@[simp] theorem State.withCur_host (s : State) (a : BitVec 32) : (s.withCur a).host = s.host := rfl
@[simp] theorem State.withCur_portOut (s : State) (a : BitVec 32) : (s.withCur a).portOut = s.portOut := rfl
@[simp] theorem State.withCur_draws (s : State) (a : BitVec 32) : (s.withCur a).draws = s.draws := rfl

/-! ### withLim -/

@[simp] theorem State.withLim_x (s : State) (a : BitVec 32) : (s.withLim a).x = s.x := rfl
@[simp] theorem State.withLim_st (s : State) (a : BitVec 32) : (s.withLim a).st = s.st := rfl
@[simp] theorem State.withLim_dir (s : State) (a : BitVec 32) : (s.withLim a).dir = s.dir := rfl
@[simp] theorem State.withLim_cur (s : State) (a : BitVec 32) : (s.withLim a).cur = s.cur := rfl
@[simp] theorem State.withLim_lim (s : State) (a : BitVec 32) : (s.withLim a).lim = a := rfl
@[simp] theorem State.withLim_pv (s : State) (a : BitVec 32) : (s.withLim a).pv = s.pv := rfl
@[simp] theorem State.withLim_par (s : State) (a : BitVec 32) : (s.withLim a).par = s.par := rfl
@[simp] theorem State.withLim_av (s : State) (a : BitVec 32) : (s.withLim a).av = s.av := rfl
@[simp] theorem State.withLim_act (s : State) (a : BitVec 32) : (s.withLim a).act = s.act := rfl
@[simp] theorem State.withLim_res (s : State) (a : BitVec 32) : (s.withLim a).res = s.res := rfl
@[simp] theorem State.withLim_rx (s : State) (a : BitVec 32) : (s.withLim a).rx = s.rx := rfl
@[simp] theorem State.withLim_tx (s : State) (a : BitVec 32) : (s.withLim a).tx = s.tx := rfl
@[simp] theorem State.withLim_disp (s : State) (a : BitVec 32) : (s.withLim a).disp = s.disp := rfl
@[simp] theorem State.withLim_host (s : State) (a : BitVec 32) : (s.withLim a).host = s.host := rfl
@[simp] theorem State.withLim_portOut (s : State) (a : BitVec 32) : (s.withLim a).portOut = s.portOut := rfl
@[simp] theorem State.withLim_draws (s : State) (a : BitVec 32) : (s.withLim a).draws = s.draws := rfl

/-! ### withParams -/

@[simp] theorem State.withParams_x (s : State) (r : ParamRegs) : (s.withParams r).x = s.x := rfl
@[simp] theorem State.withParams_st (s : State) (r : ParamRegs) : (s.withParams r).st = s.st := rfl
@[simp] theorem State.withParams_dir (s : State) (r : ParamRegs) : (s.withParams r).dir = s.dir := rfl
@[simp] theorem State.withParams_cur (s : State) (r : ParamRegs) : (s.withParams r).cur = s.cur := rfl
@[simp] theorem State.withParams_lim (s : State) (r : ParamRegs) : (s.withParams r).lim = s.lim := rfl
@[simp] theorem State.withParams_pv (s : State) (r : ParamRegs) : (s.withParams r).pv = true := rfl
@[simp] theorem State.withParams_par (s : State) (r : ParamRegs) : (s.withParams r).par = r := rfl
@[simp] theorem State.withParams_av (s : State) (r : ParamRegs) : (s.withParams r).av = s.av := rfl
@[simp] theorem State.withParams_act (s : State) (r : ParamRegs) : (s.withParams r).act = s.act := rfl
@[simp] theorem State.withParams_res (s : State) (r : ParamRegs) : (s.withParams r).res = s.res := rfl
@[simp] theorem State.withParams_rx (s : State) (r : ParamRegs) : (s.withParams r).rx = s.rx := rfl
@[simp] theorem State.withParams_tx (s : State) (r : ParamRegs) : (s.withParams r).tx = s.tx := rfl
@[simp] theorem State.withParams_disp (s : State) (r : ParamRegs) : (s.withParams r).disp = s.disp := rfl
@[simp] theorem State.withParams_host (s : State) (r : ParamRegs) : (s.withParams r).host = s.host := rfl
@[simp] theorem State.withParams_portOut (s : State) (r : ParamRegs) : (s.withParams r).portOut = s.portOut := rfl
@[simp] theorem State.withParams_draws (s : State) (r : ParamRegs) : (s.withParams r).draws = s.draws := rfl

/-! ### withTarget -/

@[simp] theorem State.withTarget_x (s : State) (p : PortIdentity) : (s.withTarget p).x = s.x := rfl
@[simp] theorem State.withTarget_st (s : State) (p : PortIdentity) : (s.withTarget p).st = s.st := rfl
@[simp] theorem State.withTarget_dir (s : State) (p : PortIdentity) : (s.withTarget p).dir = s.dir := rfl
@[simp] theorem State.withTarget_cur (s : State) (p : PortIdentity) : (s.withTarget p).cur = s.cur := rfl
@[simp] theorem State.withTarget_lim (s : State) (p : PortIdentity) : (s.withTarget p).lim = s.lim := rfl
@[simp] theorem State.withTarget_pv (s : State) (p : PortIdentity) : (s.withTarget p).pv = s.pv := rfl
@[simp] theorem State.withTarget_par (s : State) (p : PortIdentity) : (s.withTarget p).par = { s.par with target := p } := rfl
@[simp] theorem State.withTarget_av (s : State) (p : PortIdentity) : (s.withTarget p).av = s.av := rfl
@[simp] theorem State.withTarget_act (s : State) (p : PortIdentity) : (s.withTarget p).act = s.act := rfl
@[simp] theorem State.withTarget_res (s : State) (p : PortIdentity) : (s.withTarget p).res = s.res := rfl
@[simp] theorem State.withTarget_rx (s : State) (p : PortIdentity) : (s.withTarget p).rx = s.rx := rfl
@[simp] theorem State.withTarget_tx (s : State) (p : PortIdentity) : (s.withTarget p).tx = s.tx := rfl
@[simp] theorem State.withTarget_disp (s : State) (p : PortIdentity) : (s.withTarget p).disp = s.disp := rfl
@[simp] theorem State.withTarget_host (s : State) (p : PortIdentity) : (s.withTarget p).host = s.host := rfl
@[simp] theorem State.withTarget_portOut (s : State) (p : PortIdentity) : (s.withTarget p).portOut = s.portOut := rfl
@[simp] theorem State.withTarget_draws (s : State) (p : PortIdentity) : (s.withTarget p).draws = s.draws := rfl

/-! ### withAction -/

@[simp] theorem State.withAction_x (s : State) (r : ActionRegs) : (s.withAction r).x = s.x := rfl
@[simp] theorem State.withAction_st (s : State) (r : ActionRegs) : (s.withAction r).st = s.st := rfl
@[simp] theorem State.withAction_dir (s : State) (r : ActionRegs) : (s.withAction r).dir = s.dir := rfl
@[simp] theorem State.withAction_cur (s : State) (r : ActionRegs) : (s.withAction r).cur = s.cur := rfl
@[simp] theorem State.withAction_lim (s : State) (r : ActionRegs) : (s.withAction r).lim = s.lim := rfl
@[simp] theorem State.withAction_pv (s : State) (r : ActionRegs) : (s.withAction r).pv = s.pv := rfl
@[simp] theorem State.withAction_par (s : State) (r : ActionRegs) : (s.withAction r).par = s.par := rfl
@[simp] theorem State.withAction_av (s : State) (r : ActionRegs) : (s.withAction r).av = true := rfl
@[simp] theorem State.withAction_act (s : State) (r : ActionRegs) : (s.withAction r).act = r := rfl
@[simp] theorem State.withAction_res (s : State) (r : ActionRegs) : (s.withAction r).res = s.res := rfl
@[simp] theorem State.withAction_rx (s : State) (r : ActionRegs) : (s.withAction r).rx = s.rx := rfl
@[simp] theorem State.withAction_tx (s : State) (r : ActionRegs) : (s.withAction r).tx = s.tx := rfl
@[simp] theorem State.withAction_disp (s : State) (r : ActionRegs) : (s.withAction r).disp = s.disp := rfl
@[simp] theorem State.withAction_host (s : State) (r : ActionRegs) : (s.withAction r).host = s.host := rfl
@[simp] theorem State.withAction_portOut (s : State) (r : ActionRegs) : (s.withAction r).portOut = s.portOut := rfl
@[simp] theorem State.withAction_draws (s : State) (r : ActionRegs) : (s.withAction r).draws = s.draws := rfl

/-! ### withResults -/

@[simp] theorem State.withResults_x (s : State) (r : ResultRegs) : (s.withResults r).x = s.x := rfl
@[simp] theorem State.withResults_st (s : State) (r : ResultRegs) : (s.withResults r).st = s.st := rfl
@[simp] theorem State.withResults_dir (s : State) (r : ResultRegs) : (s.withResults r).dir = s.dir := rfl
@[simp] theorem State.withResults_cur (s : State) (r : ResultRegs) : (s.withResults r).cur = s.cur := rfl
@[simp] theorem State.withResults_lim (s : State) (r : ResultRegs) : (s.withResults r).lim = s.lim := rfl
@[simp] theorem State.withResults_pv (s : State) (r : ResultRegs) : (s.withResults r).pv = s.pv := rfl
@[simp] theorem State.withResults_par (s : State) (r : ResultRegs) : (s.withResults r).par = s.par := rfl
@[simp] theorem State.withResults_av (s : State) (r : ResultRegs) : (s.withResults r).av = s.av := rfl
@[simp] theorem State.withResults_act (s : State) (r : ResultRegs) : (s.withResults r).act = s.act := rfl
@[simp] theorem State.withResults_res (s : State) (r : ResultRegs) : (s.withResults r).res = r := rfl
@[simp] theorem State.withResults_rx (s : State) (r : ResultRegs) : (s.withResults r).rx = s.rx := rfl
@[simp] theorem State.withResults_tx (s : State) (r : ResultRegs) : (s.withResults r).tx = s.tx := rfl
@[simp] theorem State.withResults_disp (s : State) (r : ResultRegs) : (s.withResults r).disp = s.disp := rfl
@[simp] theorem State.withResults_host (s : State) (r : ResultRegs) : (s.withResults r).host = s.host := rfl
@[simp] theorem State.withResults_portOut (s : State) (r : ResultRegs) : (s.withResults r).portOut = s.portOut := rfl
@[simp] theorem State.withResults_draws (s : State) (r : ResultRegs) : (s.withResults r).draws = s.draws := rfl

/-! ### withRx -/

@[simp] theorem State.withRx_x (s : State) (m : Memory) : (s.withRx m).x = s.x := rfl
@[simp] theorem State.withRx_st (s : State) (m : Memory) : (s.withRx m).st = s.st := rfl
@[simp] theorem State.withRx_dir (s : State) (m : Memory) : (s.withRx m).dir = s.dir := rfl
@[simp] theorem State.withRx_cur (s : State) (m : Memory) : (s.withRx m).cur = s.cur := rfl
@[simp] theorem State.withRx_lim (s : State) (m : Memory) : (s.withRx m).lim = s.lim := rfl
@[simp] theorem State.withRx_pv (s : State) (m : Memory) : (s.withRx m).pv = s.pv := rfl
@[simp] theorem State.withRx_par (s : State) (m : Memory) : (s.withRx m).par = s.par := rfl
@[simp] theorem State.withRx_av (s : State) (m : Memory) : (s.withRx m).av = s.av := rfl
@[simp] theorem State.withRx_act (s : State) (m : Memory) : (s.withRx m).act = s.act := rfl
@[simp] theorem State.withRx_res (s : State) (m : Memory) : (s.withRx m).res = s.res := rfl
@[simp] theorem State.withRx_rx (s : State) (m : Memory) : (s.withRx m).rx = m := rfl
@[simp] theorem State.withRx_tx (s : State) (m : Memory) : (s.withRx m).tx = s.tx := rfl
@[simp] theorem State.withRx_disp (s : State) (m : Memory) : (s.withRx m).disp = s.disp := rfl
@[simp] theorem State.withRx_host (s : State) (m : Memory) : (s.withRx m).host = s.host := rfl
@[simp] theorem State.withRx_portOut (s : State) (m : Memory) : (s.withRx m).portOut = s.portOut := rfl
@[simp] theorem State.withRx_draws (s : State) (m : Memory) : (s.withRx m).draws = s.draws := rfl

/-! ### withTx -/

@[simp] theorem State.withTx_x (s : State) (m : Memory) : (s.withTx m).x = s.x := rfl
@[simp] theorem State.withTx_st (s : State) (m : Memory) : (s.withTx m).st = s.st := rfl
@[simp] theorem State.withTx_dir (s : State) (m : Memory) : (s.withTx m).dir = s.dir := rfl
@[simp] theorem State.withTx_cur (s : State) (m : Memory) : (s.withTx m).cur = s.cur := rfl
@[simp] theorem State.withTx_lim (s : State) (m : Memory) : (s.withTx m).lim = s.lim := rfl
@[simp] theorem State.withTx_pv (s : State) (m : Memory) : (s.withTx m).pv = s.pv := rfl
@[simp] theorem State.withTx_par (s : State) (m : Memory) : (s.withTx m).par = s.par := rfl
@[simp] theorem State.withTx_av (s : State) (m : Memory) : (s.withTx m).av = s.av := rfl
@[simp] theorem State.withTx_act (s : State) (m : Memory) : (s.withTx m).act = s.act := rfl
@[simp] theorem State.withTx_res (s : State) (m : Memory) : (s.withTx m).res = s.res := rfl
@[simp] theorem State.withTx_rx (s : State) (m : Memory) : (s.withTx m).rx = s.rx := rfl
@[simp] theorem State.withTx_tx (s : State) (m : Memory) : (s.withTx m).tx = m := rfl
@[simp] theorem State.withTx_disp (s : State) (m : Memory) : (s.withTx m).disp = s.disp := rfl
@[simp] theorem State.withTx_host (s : State) (m : Memory) : (s.withTx m).host = s.host := rfl
@[simp] theorem State.withTx_portOut (s : State) (m : Memory) : (s.withTx m).portOut = s.portOut := rfl
@[simp] theorem State.withTx_draws (s : State) (m : Memory) : (s.withTx m).draws = s.draws := rfl

/-! ### withDisp -/

@[simp] theorem State.withDisp_x (s : State) (m : Memory) : (s.withDisp m).x = s.x := rfl
@[simp] theorem State.withDisp_st (s : State) (m : Memory) : (s.withDisp m).st = s.st := rfl
@[simp] theorem State.withDisp_dir (s : State) (m : Memory) : (s.withDisp m).dir = s.dir := rfl
@[simp] theorem State.withDisp_cur (s : State) (m : Memory) : (s.withDisp m).cur = s.cur := rfl
@[simp] theorem State.withDisp_lim (s : State) (m : Memory) : (s.withDisp m).lim = s.lim := rfl
@[simp] theorem State.withDisp_pv (s : State) (m : Memory) : (s.withDisp m).pv = s.pv := rfl
@[simp] theorem State.withDisp_par (s : State) (m : Memory) : (s.withDisp m).par = s.par := rfl
@[simp] theorem State.withDisp_av (s : State) (m : Memory) : (s.withDisp m).av = s.av := rfl
@[simp] theorem State.withDisp_act (s : State) (m : Memory) : (s.withDisp m).act = s.act := rfl
@[simp] theorem State.withDisp_res (s : State) (m : Memory) : (s.withDisp m).res = s.res := rfl
@[simp] theorem State.withDisp_rx (s : State) (m : Memory) : (s.withDisp m).rx = s.rx := rfl
@[simp] theorem State.withDisp_tx (s : State) (m : Memory) : (s.withDisp m).tx = s.tx := rfl
@[simp] theorem State.withDisp_disp (s : State) (m : Memory) : (s.withDisp m).disp = m := rfl
@[simp] theorem State.withDisp_host (s : State) (m : Memory) : (s.withDisp m).host = s.host := rfl
@[simp] theorem State.withDisp_portOut (s : State) (m : Memory) : (s.withDisp m).portOut = s.portOut := rfl
@[simp] theorem State.withDisp_draws (s : State) (m : Memory) : (s.withDisp m).draws = s.draws := rfl

/-! ### withHost -/

@[simp] theorem State.withHost_x (s : State) (h : List HostStep) : (s.withHost h).x = s.x := rfl
@[simp] theorem State.withHost_st (s : State) (h : List HostStep) : (s.withHost h).st = s.st := rfl
@[simp] theorem State.withHost_dir (s : State) (h : List HostStep) : (s.withHost h).dir = s.dir := rfl
@[simp] theorem State.withHost_cur (s : State) (h : List HostStep) : (s.withHost h).cur = s.cur := rfl
@[simp] theorem State.withHost_lim (s : State) (h : List HostStep) : (s.withHost h).lim = s.lim := rfl
@[simp] theorem State.withHost_pv (s : State) (h : List HostStep) : (s.withHost h).pv = s.pv := rfl
@[simp] theorem State.withHost_par (s : State) (h : List HostStep) : (s.withHost h).par = s.par := rfl
@[simp] theorem State.withHost_av (s : State) (h : List HostStep) : (s.withHost h).av = s.av := rfl
@[simp] theorem State.withHost_act (s : State) (h : List HostStep) : (s.withHost h).act = s.act := rfl
@[simp] theorem State.withHost_res (s : State) (h : List HostStep) : (s.withHost h).res = s.res := rfl
@[simp] theorem State.withHost_rx (s : State) (h : List HostStep) : (s.withHost h).rx = s.rx := rfl
@[simp] theorem State.withHost_tx (s : State) (h : List HostStep) : (s.withHost h).tx = s.tx := rfl
@[simp] theorem State.withHost_disp (s : State) (h : List HostStep) : (s.withHost h).disp = s.disp := rfl
@[simp] theorem State.withHost_host (s : State) (h : List HostStep) : (s.withHost h).host = h := rfl
@[simp] theorem State.withHost_portOut (s : State) (h : List HostStep) : (s.withHost h).portOut = s.portOut := rfl
@[simp] theorem State.withHost_draws (s : State) (h : List HostStep) : (s.withHost h).draws = s.draws := rfl

/-! ### withPortOut -/

@[simp] theorem State.withPortOut_x (s : State) (v : Word64) : (s.withPortOut v).x = s.x := rfl
@[simp] theorem State.withPortOut_st (s : State) (v : Word64) : (s.withPortOut v).st = s.st := rfl
@[simp] theorem State.withPortOut_dir (s : State) (v : Word64) : (s.withPortOut v).dir = s.dir := rfl
@[simp] theorem State.withPortOut_cur (s : State) (v : Word64) : (s.withPortOut v).cur = s.cur := rfl
@[simp] theorem State.withPortOut_lim (s : State) (v : Word64) : (s.withPortOut v).lim = s.lim := rfl
@[simp] theorem State.withPortOut_pv (s : State) (v : Word64) : (s.withPortOut v).pv = s.pv := rfl
@[simp] theorem State.withPortOut_par (s : State) (v : Word64) : (s.withPortOut v).par = s.par := rfl
@[simp] theorem State.withPortOut_av (s : State) (v : Word64) : (s.withPortOut v).av = s.av := rfl
@[simp] theorem State.withPortOut_act (s : State) (v : Word64) : (s.withPortOut v).act = s.act := rfl
@[simp] theorem State.withPortOut_res (s : State) (v : Word64) : (s.withPortOut v).res = s.res := rfl
@[simp] theorem State.withPortOut_rx (s : State) (v : Word64) : (s.withPortOut v).rx = s.rx := rfl
@[simp] theorem State.withPortOut_tx (s : State) (v : Word64) : (s.withPortOut v).tx = s.tx := rfl
@[simp] theorem State.withPortOut_disp (s : State) (v : Word64) : (s.withPortOut v).disp = s.disp := rfl
@[simp] theorem State.withPortOut_host (s : State) (v : Word64) : (s.withPortOut v).host = s.host := rfl
@[simp] theorem State.withPortOut_portOut (s : State) (v : Word64) : (s.withPortOut v).portOut = v := rfl
@[simp] theorem State.withPortOut_draws (s : State) (v : Word64) : (s.withPortOut v).draws = s.draws := rfl

/-! ### withDraw -/

@[simp] theorem State.withDraw_x (s : State) : s.withDraw.x = s.x := rfl
@[simp] theorem State.withDraw_st (s : State) : s.withDraw.st = s.st := rfl
@[simp] theorem State.withDraw_dir (s : State) : s.withDraw.dir = s.dir := rfl
@[simp] theorem State.withDraw_cur (s : State) : s.withDraw.cur = s.cur := rfl
@[simp] theorem State.withDraw_lim (s : State) : s.withDraw.lim = s.lim := rfl
@[simp] theorem State.withDraw_pv (s : State) : s.withDraw.pv = s.pv := rfl
@[simp] theorem State.withDraw_par (s : State) : s.withDraw.par = s.par := rfl
@[simp] theorem State.withDraw_av (s : State) : s.withDraw.av = s.av := rfl
@[simp] theorem State.withDraw_act (s : State) : s.withDraw.act = s.act := rfl
@[simp] theorem State.withDraw_res (s : State) : s.withDraw.res = s.res := rfl
@[simp] theorem State.withDraw_rx (s : State) : s.withDraw.rx = s.rx := rfl
@[simp] theorem State.withDraw_tx (s : State) : s.withDraw.tx = s.tx := rfl
@[simp] theorem State.withDraw_disp (s : State) : s.withDraw.disp = s.disp := rfl
@[simp] theorem State.withDraw_host (s : State) : s.withDraw.host = s.host := rfl
@[simp] theorem State.withDraw_portOut (s : State) : s.withDraw.portOut = s.portOut := rfl
@[simp] theorem State.withDraw_draws (s : State) : s.withDraw.draws = s.draws + 1 := rfl

/-! ### advance -/

@[simp] theorem advance_x (k : Nat) (s : State) : (advance k s).x = s.x := rfl
@[simp] theorem advance_st (k : Nat) (s : State) : (advance k s).st = s.st := rfl
@[simp] theorem advance_dir (k : Nat) (s : State) : (advance k s).dir = s.dir := rfl
@[simp] theorem advance_cur (k : Nat) (s : State) : (advance k s).cur = s.cur + BitVec.ofNat 32 k := rfl
@[simp] theorem advance_lim (k : Nat) (s : State) : (advance k s).lim = s.lim := rfl
@[simp] theorem advance_pv (k : Nat) (s : State) : (advance k s).pv = s.pv := rfl
@[simp] theorem advance_par (k : Nat) (s : State) : (advance k s).par = s.par := rfl
@[simp] theorem advance_av (k : Nat) (s : State) : (advance k s).av = s.av := rfl
@[simp] theorem advance_act (k : Nat) (s : State) : (advance k s).act = s.act := rfl
@[simp] theorem advance_res (k : Nat) (s : State) : (advance k s).res = s.res := rfl
@[simp] theorem advance_rx (k : Nat) (s : State) : (advance k s).rx = s.rx := rfl
@[simp] theorem advance_tx (k : Nat) (s : State) : (advance k s).tx = s.tx := rfl
@[simp] theorem advance_disp (k : Nat) (s : State) : (advance k s).disp = s.disp := rfl
@[simp] theorem advance_host (k : Nat) (s : State) : (advance k s).host = s.host := rfl
@[simp] theorem advance_portOut (k : Nat) (s : State) : (advance k s).portOut = s.portOut := rfl
@[simp] theorem advance_draws (k : Nat) (s : State) : (advance k s).draws = s.draws := rfl

/-! ### openWindow -/

@[simp] theorem openWindow_x (d : Dir) (b l : Nat) (s : State) : (openWindow d b l s).x = s.x := rfl
@[simp] theorem openWindow_st (d : Dir) (b l : Nat) (s : State) : (openWindow d b l s).st = s.st := rfl
@[simp] theorem openWindow_dir (d : Dir) (b l : Nat) (s : State) : (openWindow d b l s).dir = d := rfl
@[simp] theorem openWindow_cur (d : Dir) (b l : Nat) (s : State) : (openWindow d b l s).cur = BitVec.ofNat 32 b := rfl
@[simp] theorem openWindow_lim (d : Dir) (b l : Nat) (s : State) : (openWindow d b l s).lim = BitVec.ofNat 32 l := rfl
@[simp] theorem openWindow_pv (d : Dir) (b l : Nat) (s : State) : (openWindow d b l s).pv = s.pv := rfl
@[simp] theorem openWindow_par (d : Dir) (b l : Nat) (s : State) : (openWindow d b l s).par = s.par := rfl
@[simp] theorem openWindow_av (d : Dir) (b l : Nat) (s : State) : (openWindow d b l s).av = s.av := rfl
@[simp] theorem openWindow_act (d : Dir) (b l : Nat) (s : State) : (openWindow d b l s).act = s.act := rfl
@[simp] theorem openWindow_res (d : Dir) (b l : Nat) (s : State) : (openWindow d b l s).res = s.res := rfl
@[simp] theorem openWindow_rx (d : Dir) (b l : Nat) (s : State) : (openWindow d b l s).rx = s.rx := rfl
@[simp] theorem openWindow_tx (d : Dir) (b l : Nat) (s : State) : (openWindow d b l s).tx = s.tx := rfl
@[simp] theorem openWindow_disp (d : Dir) (b l : Nat) (s : State) : (openWindow d b l s).disp = s.disp := rfl
@[simp] theorem openWindow_host (d : Dir) (b l : Nat) (s : State) : (openWindow d b l s).host = s.host := rfl
@[simp] theorem openWindow_portOut (d : Dir) (b l : Nat) (s : State) : (openWindow d b l s).portOut = s.portOut := rfl
@[simp] theorem openWindow_draws (d : Dir) (b l : Nat) (s : State) : (openWindow d b l s).draws = s.draws := rfl

/-! ### closeTakenWindow -/

@[simp] theorem closeTakenWindow_x (s : State) : (closeTakenWindow s).x = s.x := rfl
@[simp] theorem closeTakenWindow_st (s : State) : (closeTakenWindow s).st = s.st := rfl
@[simp] theorem closeTakenWindow_dir (s : State) : (closeTakenWindow s).dir = .idle := rfl
@[simp] theorem closeTakenWindow_cur (s : State) : (closeTakenWindow s).cur = s.free .cur 32 := rfl
@[simp] theorem closeTakenWindow_lim (s : State) : (closeTakenWindow s).lim = s.free .lim 32 := rfl
@[simp] theorem closeTakenWindow_pv (s : State) : (closeTakenWindow s).pv = s.pv := rfl
@[simp] theorem closeTakenWindow_par (s : State) : (closeTakenWindow s).par = s.par := rfl
@[simp] theorem closeTakenWindow_av (s : State) : (closeTakenWindow s).av = s.av := rfl
@[simp] theorem closeTakenWindow_act (s : State) : (closeTakenWindow s).act = s.act := rfl
@[simp] theorem closeTakenWindow_res (s : State) : (closeTakenWindow s).res = s.res := rfl
@[simp] theorem closeTakenWindow_rx (s : State) : (closeTakenWindow s).rx = s.rx := rfl
@[simp] theorem closeTakenWindow_tx (s : State) : (closeTakenWindow s).tx = s.tx := rfl
@[simp] theorem closeTakenWindow_disp (s : State) : (closeTakenWindow s).disp = s.disp := rfl
@[simp] theorem closeTakenWindow_host (s : State) : (closeTakenWindow s).host = s.host := rfl
@[simp] theorem closeTakenWindow_portOut (s : State) : (closeTakenWindow s).portOut = s.portOut := rfl
@[simp] theorem closeTakenWindow_draws (s : State) : (closeTakenWindow s).draws = s.draws := rfl

end Sys2Proof.Machine
end

