-- ==== Sys2Proof/Laws/Memory.lean ====
section
/-! SUPPORT. Memory: what a read gives after a write, and that every memory operation keeps the canonical form and the
bounds (20_memory.md R16, R80, R82). -/

namespace Sys2Proof.Machine

/-! ### Reading back -/

theorem Memory.read_insertCell (m : Memory) (a b : Nat) (o : Octet) (h : b ≠ a) :
    Memory.read (Memory.insertCell a o m) b = Memory.read m b := by
  induction m with
  | nil => simp [Memory.insertCell, Memory.read, h]
  | cons c m ih =>
    obtain ⟨k, p⟩ := c
    simp only [Memory.insertCell]
    split_ifs
    · simp [Memory.read, h]
    · simp only [Memory.read, ih]

theorem Memory.read_insertCell_same (m : Memory) (a : Nat) (o : Octet) (h : ∀ c ∈ m, c.1 ≠ a) :
    Memory.read (Memory.insertCell a o m) a = o := by
  induction m with
  | nil => simp [Memory.insertCell, Memory.read]
  | cons c m ih =>
    obtain ⟨k, p⟩ := c
    have hk : a ≠ k := (h (k, p) (by simp)).symm
    simp only [Memory.insertCell]
    split_ifs
    · simp [Memory.read]
    · simp only [Memory.read, hk, if_false]
      exact ih fun c hc => h c (by simp [hc])

theorem Memory.not_mem_erase (m : Memory) (a : Nat) : ∀ c ∈ m.erase a, c.1 ≠ a := by
  intro c hc
  simp only [Memory.erase, List.mem_filter, bne_iff_ne] at hc
  exact hc.2

theorem Memory.read_of_not_mem {m : Memory} {a : Nat} (h : ∀ c ∈ m, c.1 ≠ a) : m.read a = Config.unlistedOctet := by
  induction m with
  | nil => rfl
  | cons c m ih =>
    obtain ⟨k, p⟩ := c
    simp only [Memory.read, (h (k, p) (by simp)).symm, if_false]
    exact ih fun c hc => h c (by simp [hc])

theorem Memory.read_erase_ne (m : Memory) {a b : Nat} (h : b ≠ a) : (m.erase a).read b = m.read b := by
  induction m with
  | nil => rfl
  | cons c m ih =>
    obtain ⟨k, p⟩ := c
    simp only [Memory.erase] at ih ⊢
    by_cases hk : k = a
    · subst hk
      rw [List.filter_cons_of_neg (by simp)]
      simp only [Memory.read, h, if_false]; exact ih
    · rw [List.filter_cons_of_pos (by simpa using hk)]
      simp only [Memory.read]
      by_cases hb : b = k
      · simp [hb]
      · simp only [hb, if_false]; exact ih

/-- A write changes the octet it names and no other (R80). -/
theorem Memory.read_write (m : Memory) (a b : Nat) (o : Octet) :
    (m.write a o).read b = if b = a then o else m.read b := by
  have hn := Memory.not_mem_erase m a
  simp only [Memory.write]
  by_cases hb : b = a
  · subst hb
    by_cases ho : o = Config.unlistedOctet
    · simp only [ho, if_true]; exact Memory.read_of_not_mem hn
    · simp only [ho, if_false, if_true]; exact Memory.read_insertCell_same _ _ _ hn
  · by_cases ho : o = Config.unlistedOctet
    · simp only [ho, hb, if_true, if_false]; exact Memory.read_erase_ne m hb
    · simp only [ho, hb, if_false]; rw [Memory.read_insertCell _ _ _ _ hb, Memory.read_erase_ne m hb]

/-! ### The canonical form -/

theorem Memory.wfFrom_cons {lo k : Nat} {p : Octet} {m : Memory} :
    Memory.wfFrom lo ((k, p) :: m) = true ↔ lo ≤ k ∧ p ≠ Config.unlistedOctet ∧ Memory.wfFrom (k + 1) m = true := by
  simp [Memory.wfFrom, and_assoc]

theorem Memory.wfFrom_mono {lo lo' : Nat} (hl : lo' ≤ lo) {m : Memory} (h : Memory.wfFrom lo m = true) :
    Memory.wfFrom lo' m = true := by
  cases m with
  | nil => rfl
  | cons c m =>
    obtain ⟨h1, h2⟩ := Memory.wfFrom_cons.mp h
    exact Memory.wfFrom_cons.mpr ⟨by omega, h2⟩

theorem Memory.wfFrom_erase {lo : Nat} {m : Memory} (h : Memory.wfFrom lo m = true) (a : Nat) :
    Memory.wfFrom lo (m.erase a) = true := by
  induction m generalizing lo with
  | nil => rfl
  | cons c m ih =>
    obtain ⟨k, p⟩ := c
    obtain ⟨h1, h2, h3⟩ := Memory.wfFrom_cons.mp h
    simp only [Memory.erase] at ih ⊢
    by_cases hk : k = a
    · rw [List.filter_cons_of_neg (by simpa using hk)]
      exact Memory.wfFrom_mono (by omega) (ih h3)
    · rw [List.filter_cons_of_pos (by simpa using hk)]
      exact Memory.wfFrom_cons.mpr ⟨h1, h2, ih h3⟩

theorem Memory.wfFrom_insertCell {lo : Nat} {m : Memory} (h : Memory.wfFrom lo m = true) {a : Nat} (ha : lo ≤ a) {o : Octet}
    (ho : o ≠ Config.unlistedOctet) (hn : ∀ c ∈ m, c.1 ≠ a) : Memory.wfFrom lo (Memory.insertCell a o m) = true := by
  induction m generalizing lo with
  | nil => exact Memory.wfFrom_cons.mpr ⟨ha, ho, rfl⟩
  | cons c m ih =>
    obtain ⟨k, p⟩ := c
    obtain ⟨h1, h2, h3⟩ := Memory.wfFrom_cons.mp h
    have hk : k ≠ a := hn (k, p) (by simp)
    simp only [Memory.insertCell]
    split_ifs with hlt
    · exact Memory.wfFrom_cons.mpr ⟨ha, ho, Memory.wfFrom_cons.mpr ⟨by omega, h2, h3⟩⟩
    · exact Memory.wfFrom_cons.mpr ⟨h1, h2, ih h3 (by omega) fun c hc => hn c (by simp [hc])⟩

theorem Memory.wf_write {m : Memory} (h : m.wf = true) (a : Nat) (o : Octet) : (m.write a o).wf = true := by
  simp only [Memory.write]
  split_ifs with ho
  · exact Memory.wfFrom_erase h a
  · exact Memory.wfFrom_insertCell (Memory.wfFrom_erase h a) (Nat.zero_le a) ho (Memory.not_mem_erase m a)

theorem Memory.wf_writeBytes {m : Memory} (h : m.wf = true) (a : Nat) (os : List Octet) :
    (m.writeBytes a os).wf = true := by
  induction os generalizing m a with
  | nil => exact h
  | cons o os ih => exact ih (Memory.wf_write h a o) (a + 1)

theorem Memory.wfFrom_ofOctets (a : Nat) (os : List Octet) : Memory.wfFrom a (Memory.ofOctets a os) = true := by
  induction os generalizing a with
  | nil => rfl
  | cons o os ih =>
    simp only [Memory.ofOctets]
    split_ifs with ho
    · exact Memory.wfFrom_mono (Nat.le_succ a) (ih (a + 1))
    · simp [Memory.wfFrom, ho, ih (a + 1)]

theorem Memory.wf_ofOctets (os : List Octet) : (Memory.ofOctets 0 os).wf = true := Memory.wfFrom_ofOctets 0 os

/-! ### The bounds -/

theorem Memory.within_iff {n : Nat} {m : Memory} : m.within n = true ↔ ∀ c ∈ m, c.1 < n := by
  simp [Memory.within]

theorem Memory.mem_insertCell {a : Nat} {o : Octet} {m : Memory} {c : Host.Cell} (h : c ∈ Memory.insertCell a o m) :
    c = (a, o) ∨ c ∈ m := by
  induction m with
  | nil => simpa [Memory.insertCell] using h
  | cons d m ih =>
    obtain ⟨k, p⟩ := d
    simp only [Memory.insertCell] at h
    split_ifs at h
    · simpa using h
    · rcases List.mem_cons.mp h with rfl | h
      · simp
      · rcases ih h with h | h <;> simp [h]

theorem Memory.within_write {n : Nat} {m : Memory} (h : m.within n = true) {a : Nat} (ha : a < n) (o : Octet) :
    (m.write a o).within n = true := by
  rw [Memory.within_iff] at h ⊢
  intro c hc
  have he : ∀ c ∈ m.erase a, c.1 < n := fun c hc => h c (List.mem_of_mem_filter hc)
  simp only [Memory.write] at hc
  split_ifs at hc
  · exact he c hc
  · rcases Memory.mem_insertCell hc with rfl | hc
    · exact ha
    · exact he c hc

theorem Memory.within_writeBytes {n : Nat} {m : Memory} (h : m.within n = true) {a : Nat} (os : List Octet)
    (ha : a + os.length ≤ n) : (m.writeBytes a os).within n = true := by
  induction os generalizing m a with
  | nil => exact h
  | cons o os ih =>
    simp only [List.length_cons] at ha
    exact ih (Memory.within_write h (by omega) o) (by omega)

theorem Memory.within_ofOctets {n : Nat} (a : Nat) (os : List Octet) (h : a + os.length ≤ n) :
    (Memory.ofOctets a os).within n = true := by
  induction os generalizing a with
  | nil => rfl
  | cons o os ih =>
    simp only [List.length_cons] at h
    have := ih (a + 1) (by omega)
    simp only [Memory.ofOctets]
    split_ifs
    · exact this
    · simp only [Memory.within, List.all_cons, Bool.and_eq_true, decide_eq_true_eq] at this ⊢
      exact ⟨by omega, this⟩

/-! ### Strings of octets -/

@[simp] theorem Memory.readBytes_length (m : Memory) (a n : Nat) : (m.readBytes a n).length = n := by
  induction n generalizing a with
  | zero => rfl
  | succ n ih => simp [Memory.readBytes, ih]

theorem Memory.readBytes_getElem (m : Memory) (a n j : Nat) (h : j < (m.readBytes a n).length) :
    (m.readBytes a n)[j] = m.read (a + j) := by
  induction n generalizing a j with
  | zero => simp [Memory.readBytes] at h
  | succ n ih =>
    cases j with
    | zero => simp [Memory.readBytes]
    | succ j =>
      have hj : j < (m.readBytes (a + 1) n).length := by simpa [Memory.readBytes] using h
      simp only [Memory.readBytes, List.getElem_cons_succ, ih (a + 1) j hj]
      congr 1; omega

/-- A string written reads back octet by octet, and every other octet reads as before (R16, R80). -/
theorem Memory.read_writeBytes (m : Memory) (a : Nat) (os : List Octet) (b : Nat) :
    (m.writeBytes a os).read b = if hb : a ≤ b ∧ b - a < os.length then os[b - a]'hb.2 else m.read b := by
  induction os generalizing m a with
  | nil => simp [Memory.writeBytes]
  | cons o os ih =>
    simp only [Memory.writeBytes]
    rw [ih _ (a + 1), Memory.read_write m a b o]
    by_cases hb : b = a
    · subst hb
      simp
    · by_cases hk : a + 1 ≤ b ∧ b - (a + 1) < os.length
      · have h2 : a ≤ b ∧ b - a < (o :: os).length := by simp only [List.length_cons]; omega
        have e : b - a = (b - (a + 1)) + 1 := by omega
        simp only [dif_pos hk, dif_pos h2]
        simp only [e, List.getElem_cons_succ]
      · have h2 : ¬ (a ≤ b ∧ b - a < (o :: os).length) := by simp only [List.length_cons]; omega
        simp only [dif_neg hk, dif_neg h2, hb, if_false]

/-- The memory that holds a string of octets reads as it. -/
theorem Memory.read_ofOctets (a : Nat) (os : List Octet) (j : Nat) (h : j < os.length) :
    (Memory.ofOctets a os).read (a + j) = os[j] := by
  have low : ∀ (os : List Octet) (a b : Nat), b < a → (Memory.ofOctets a os).read b = Config.unlistedOctet := by
    intro os
    induction os with
    | nil => intros; rfl
    | cons o os ih =>
      intro a b hb
      simp only [Memory.ofOctets]
      split_ifs
      · exact ih (a + 1) b (by omega)
      · simp [Memory.read, show b ≠ a by omega, ih (a + 1) b (by omega)]
  induction os generalizing a j with
  | nil => simp at h
  | cons o os ih =>
    cases j with
    | zero =>
      simp only [Memory.ofOctets, Nat.add_zero, List.getElem_cons_zero]
      split_ifs with ho
      · rw [low os (a + 1) a (by omega), ho]
      · simp [Memory.read]
    | succ j =>
      have hj : j < os.length := by simpa using h
      have e : a + (j + 1) = a + 1 + j := by omega
      simp only [Memory.ofOctets, List.getElem_cons_succ]
      split_ifs
      · rw [e]; exact ih (a + 1) j hj
      · simp only [Memory.read, show a + (j + 1) ≠ a by omega, if_false]
        rw [e]; exact ih (a + 1) j hj

@[simp] theorem freeOctets_length (k : Nat) (sp : Space) (a n : Nat) : (freeOctets k sp a n).length = n := by
  induction n generalizing a with
  | zero => rfl
  | succ n ih => simp [freeOctets, ih]

end Sys2Proof.Machine
end

