-- ==== Sys2Proof/Laws/Ops.lean ====
section
/-! SUPPORT. What each shared operation can do, said once (40_primitive_codec.md R150 to R157; 41_compound_codec.md R190). -/

namespace Sys2Proof.Machine

/-! ### Cursor operations -/

theorem rdBlock_ok {k : Nat} {s t : State} {o : List Octet} (h : rdBlock k s = .ok (o, t)) :
    k ≤ left s ∧ o = s.rx.readBytes s.cur.toNat k ∧ t = advance k s := by
  unfold rdBlock at h
  split at h
  · cases h
  · cases h; exact ⟨by omega, rfl, rfl⟩

theorem rdBlock_error {k : Nat} {s : State} {e : Code} (h : rdBlock k s = .error e) : left s < k ∧ e = .tooSmall := by
  unfold rdBlock at h
  split at h
  · cases h; exact ⟨by assumption, rfl⟩
  · cases h

theorem rdBlock_of_left {k : Nat} {s : State} (h : k ≤ left s) :
    rdBlock k s = .ok (s.rx.readBytes s.cur.toNat k, advance k s) := by
  simp [rdBlock, Nat.not_lt.mpr h]

theorem rdBlock_of_short {k : Nat} {s : State} (h : left s < k) : rdBlock k s = .error .tooSmall := by
  simp [rdBlock, h]

theorem rdBE_ok {n : Nat} {s t : State} {v : Word64} (h : rdBE n s = .ok (v, t)) :
    n / 8 ≤ left s ∧ v = BitVec.ofNat 64 (beNat (s.rx.readBytes s.cur.toNat (n / 8))) ∧ t = advance (n / 8) s := by
  unfold rdBE at h
  split at h
  · cases h
  · rename_i o u hb
    obtain ⟨h1, rfl, rfl⟩ := rdBlock_ok hb
    cases h; exact ⟨h1, rfl, rfl⟩

theorem rdBE_of_left {n : Nat} {s : State} (h : n / 8 ≤ left s) :
    rdBE n s = .ok (BitVec.ofNat 64 (beNat (s.rx.readBytes s.cur.toNat (n / 8))), advance (n / 8) s) := by
  simp [rdBE, rdBlock_of_left h]

theorem rdBE_of_short {n : Nat} {s : State} (h : left s < n / 8) : rdBE n s = .error .tooSmall := by
  simp [rdBE, rdBlock_of_short h]

theorem rdI_of_left {n : Nat} {s : State} (h : n / 8 ≤ left s) :
    rdI n s = .ok (signExtended n (beNat (s.rx.readBytes s.cur.toNat (n / 8))), advance (n / 8) s) := by
  simp [rdI, rdBlock_of_left h]

theorem rdI_of_short {n : Nat} {s : State} (h : left s < n / 8) : rdI n s = .error .tooSmall := by
  simp [rdI, rdBlock_of_short h]

theorem rdLE64_of_left {s : State} (h : 8 ≤ left s) :
    rdLE64 s = .ok (BitVec.ofNat 64 (leNat (s.rx.readBytes s.cur.toNat 8)), advance 8 s) := by
  simp [rdLE64, rdBlock_of_left h]

theorem rdLE64_of_short {s : State} (h : left s < 8) : rdLE64 s = .error .tooSmall := by
  simp [rdLE64, rdBlock_of_short h]

theorem rdClockIdentity_of_left {s : State} (h : 8 ≤ left s) :
    rdClockIdentity s = .ok (BitVec.ofNat 64 (beNat (s.rx.readBytes s.cur.toNat 8)), advance 8 s) := by
  simp [rdClockIdentity, rdBlock_of_left h]

theorem rdClockIdentity_of_short {s : State} (h : left s < 8) : rdClockIdentity s = .error .tooSmall := by
  simp [rdClockIdentity, rdBlock_of_short h]

/-- The state after a string of octets was appended at the cursor. -/
def appended (o : List Octet) (s : State) : State := advance o.length (s.withTx (s.tx.writeBytes s.cur.toNat o))

theorem wrBlock_ok {o : List Octet} {s t : State} (h : wrBlock o s = .ok t) : o.length ≤ left s ∧ t = appended o s := by
  unfold wrBlock at h
  split at h
  · cases h
  · cases h; exact ⟨by omega, rfl⟩

theorem wrBlock_error {o : List Octet} {s : State} {e : Code} (h : wrBlock o s = .error e) :
    left s < o.length ∧ e = .tooSmall := by
  unfold wrBlock at h
  split at h
  · cases h; exact ⟨by assumption, rfl⟩
  · cases h

theorem wrBlock_of_left {o : List Octet} {s : State} (h : o.length ≤ left s) : wrBlock o s = .ok (appended o s) := by
  simp [wrBlock, Nat.not_lt.mpr h, appended]

theorem wrBlock_of_short {o : List Octet} {s : State} (h : left s < o.length) : wrBlock o s = .error .tooSmall := by
  simp [wrBlock, h]

/-! ### The window after a move of the cursor -/

theorem toNat_advance {k : Nat} {s : State} (h : k ≤ left s) (hs : s.cur.toNat ≤ s.lim.toNat) :
    (s.cur + BitVec.ofNat 32 k).toNat = s.cur.toNat + k := by
  have := s.lim.isLt
  unfold left at h
  rw [BitVec.toNat_add, BitVec.toNat_ofNat, Nat.mod_eq_of_lt (by omega : k < 2 ^ 32), Nat.mod_eq_of_lt (by omega)]

theorem left_advance {k : Nat} {s : State} (h : k ≤ left s) (hs : s.cur.toNat ≤ s.lim.toNat) :
    left (advance k s) = left s - k := by
  have := toNat_advance h hs
  unfold left at *
  simp only [advance_lim, advance_cur, this]
  omega

/-! ### Frames of commands -/

theorem whileParsing_next {f : State → Result} {s t : State} (h : whileParsing f s = .next t) :
    s.dir = .parse ∧ f s = .next t := by
  unfold whileParsing at h
  split at h
  · exact ⟨by assumption, h⟩
  · cases h

theorem whileBuilding_next {f : State → Result} {s t : State} (h : whileBuilding f s = .next t) :
    s.dir = .build ∧ f s = .next t := by
  unfold whileBuilding at h
  split at h
  · exact ⟨by assumption, h⟩
  · cases h

theorem withParameters_next {f : State → Result} {s t : State} (h : withParameters f s = .next t) :
    s.pv = true ∧ f s = .next t := by
  unfold withParameters at h
  split at h
  · exact ⟨by assumption, h⟩
  · cases h

theorem complete_next {c : Code} {s t : State} (h : complete c s = .next t) : t = s.withStatus c := by
  cases h; rfl

/-- Everything a read command of one primitive can do. -/
theorem readInteger_next {rd : State → Except Code (Word64 × State)} {s t : State} (h : readInteger rd s = .next t) :
    s.dir = .parse ∧ ((∃ e, rd s = .error e ∧ t = s.withStatus e) ∨
      ∃ v u, rd s = .ok (v, u) ∧ t = (u.writeX 0 v).withStatus .ok) := by
  obtain ⟨hd, h⟩ := whileParsing_next h
  refine ⟨hd, ?_⟩
  split at h
  · exact .inl ⟨_, by assumption, complete_next h⟩
  · exact .inr ⟨_, _, by assumption, complete_next h⟩

/-- Everything a write command of one primitive can do. -/
theorem writeInteger_next {p : Word64 → Bool} {wr : Word64 → State → Except Code State} {s t : State}
    (h : writeInteger p wr s = .next t) :
    s.dir = .build ∧ ((p s.x.x0 = false ∧ t = s.withStatus .val) ∨
      (p s.x.x0 = true ∧ ((∃ e, wr s.x.x0 s = .error e ∧ t = s.withStatus e) ∨
        ∃ u, wr s.x.x0 s = .ok u ∧ t = u.withStatus .ok))) := by
  obtain ⟨hd, h⟩ := whileBuilding_next h
  refine ⟨hd, ?_⟩
  by_cases hp : p s.x.x0 = true
  · replace h := (if_pos hp).symm.trans h
    refine .inr ⟨hp, ?_⟩
    split at h
    · exact .inl ⟨_, by assumption, complete_next h⟩
    · exact .inr ⟨_, by assumption, complete_next h⟩
  · exact .inl ⟨by simpa using hp, complete_next ((if_neg hp).symm.trans h)⟩

/-- Everything a compound read of two primitives can do (R190). -/
theorem readPair_next {r₀ r₁ : State → Except Code (Word64 × State)} {s t : State} (h : readPair r₀ r₁ s = .next t) :
    s.dir = .parse ∧ ((∃ e, r₀ s = .error e ∧ t = s.withStatus e) ∨
      (∃ v u e, r₀ s = .ok (v, u) ∧ r₁ u = .error e ∧ t = u.withStatus e) ∨
      ∃ v u w z, r₀ s = .ok (v, u) ∧ r₁ u = .ok (w, z) ∧ t = ((z.writeX 0 v).writeX 1 w).withStatus .ok) := by
  obtain ⟨hd, h⟩ := whileParsing_next h
  refine ⟨hd, ?_⟩
  split at h
  · exact .inl ⟨_, by assumption, complete_next h⟩
  · split at h
    · exact .inr (.inl ⟨_, _, _, by assumption, by assumption, complete_next h⟩)
    · exact .inr (.inr ⟨_, _, _, _, by assumption, by assumption, complete_next h⟩)

/-- Everything a compound write of two primitives can do (R190). -/
theorem writePair_next {p : Word64 → Bool} {w₀ w₁ : Word64 → State → Except Code State} {s t : State}
    (h : writePair p w₀ w₁ s = .next t) :
    s.dir = .build ∧ ((p s.x.x0 = false ∧ t = s.withStatus .val) ∨
      (p s.x.x0 = true ∧ ((∃ e, w₀ s.x.x0 s = .error e ∧ t = s.withStatus e) ∨
        (∃ u e, w₀ s.x.x0 s = .ok u ∧ w₁ s.x.x1 u = .error e ∧ t = u.withStatus e) ∨
        ∃ u z, w₀ s.x.x0 s = .ok u ∧ w₁ s.x.x1 u = .ok z ∧ t = z.withStatus .ok))) := by
  obtain ⟨hd, h⟩ := whileBuilding_next h
  refine ⟨hd, ?_⟩
  by_cases hp : p s.x.x0 = true
  · replace h := (if_pos hp).symm.trans h
    refine .inr ⟨hp, ?_⟩
    split at h
    · exact .inl ⟨_, by assumption, complete_next h⟩
    · split at h
      · exact .inr (.inl ⟨_, _, by assumption, by assumption, complete_next h⟩)
      · exact .inr (.inr ⟨_, _, by assumption, by assumption, complete_next h⟩)
  · exact .inl ⟨by simpa using hp, complete_next ((if_neg hp).symm.trans h)⟩

end Sys2Proof.Machine
end

