-- ==== Sys2Proof/Laws/Exec.lean ====
section
/-! SUPPORT. What each arm of `exec` is over the shared operations, and what the step can do, each said once, so that no
later proof unfolds `exec` or `step`. -/

namespace Sys2Proof.Machine

/-! ### The arms of `exec` -/

theorem exec_openRd (s : State) : exec .openRd s = openWith Config.impl.rxSize .parse s := rfl

theorem exec_openWr (s : State) : exec .openWr s = openWith Config.impl.txSize .build s := rfl

theorem exec_close (s : State) : exec .close s = complete .ok (s.withDir .idle) := rfl

theorem exec_rdU8 (s : State) : exec .rdU8 s = readInteger (rdBE 8) s := rfl

theorem exec_rdU16 (s : State) : exec .rdU16 s = readInteger (rdBE 16) s := rfl

theorem exec_rdU32 (s : State) : exec .rdU32 s = readInteger (rdBE 32) s := rfl

theorem exec_rdU48 (s : State) : exec .rdU48 s = readInteger (rdBE 48) s := rfl

theorem exec_rdU64 (s : State) : exec .rdU64 s = readInteger (rdBE 64) s := rfl

theorem exec_rdI8 (s : State) : exec .rdI8 s = readInteger (rdI 8) s := rfl

theorem exec_rdI16 (s : State) : exec .rdI16 s = readInteger (rdI 16) s := rfl

theorem exec_rdI32 (s : State) : exec .rdI32 s = readInteger (rdI 32) s := rfl

theorem exec_rdI48 (s : State) : exec .rdI48 s = readInteger (rdI 48) s := rfl

theorem exec_rdI64 (s : State) : exec .rdI64 s = readInteger (rdI 64) s := rfl

theorem exec_rdU64le (s : State) : exec .rdU64le s = readInteger rdLE64 s := rfl

theorem exec_wrU8 (s : State) : exec .wrU8 s = writeInteger anyValue (wrBE 8) s := rfl

theorem exec_wrU16 (s : State) : exec .wrU16 s = writeInteger anyValue (wrBE 16) s := rfl

theorem exec_wrU32 (s : State) : exec .wrU32 s = writeInteger anyValue (wrBE 32) s := rfl

theorem exec_wrU48 (s : State) : exec .wrU48 s = writeInteger fitsU48 (wrBE 48) s := rfl

theorem exec_wrU64 (s : State) : exec .wrU64 s = writeInteger anyValue (wrBE 64) s := rfl

theorem exec_wrI8 (s : State) : exec .wrI8 s = writeInteger anyValue (wrBE 8) s := rfl

theorem exec_wrI16 (s : State) : exec .wrI16 s = writeInteger anyValue (wrBE 16) s := rfl

theorem exec_wrI32 (s : State) : exec .wrI32 s = writeInteger anyValue (wrBE 32) s := rfl

theorem exec_wrI48 (s : State) : exec .wrI48 s = writeInteger fitsI48 (wrBE 48) s := rfl

theorem exec_wrI64 (s : State) : exec .wrI64 s = writeInteger anyValue (wrBE 64) s := rfl

theorem exec_wrU64le (s : State) : exec .wrU64le s = writeInteger anyValue wrLE64 s := rfl

theorem exec_rdTimestamp (s : State) : exec .rdTimestamp s = readPair (rdBE 48) (rdBE 32) s := rfl

theorem exec_rdClockid (s : State) : exec .rdClockid s = readInteger rdClockIdentity s := rfl

theorem exec_rdPortid (s : State) : exec .rdPortid s = readPair rdClockIdentity (rdBE 16) s := rfl

theorem exec_wrTimestamp (s : State) : exec .wrTimestamp s = writePair fitsU48 (wrBE 48) (wrBE 32) s := rfl

theorem exec_wrClockid (s : State) : exec .wrClockid s = writeInteger anyValue wrClockIdentity s := rfl

theorem exec_wrPortid (s : State) : exec .wrPortid s = writePair anyValue wrClockIdentity (wrBE 16) s := rfl

theorem exec_updateParams (s : State) :
    exec .updateParams s =
      if paramsInRange s then completeBool true (s.withParams (paramOperands s)) else completeBool false s := rfl

theorem exec_setAllPorts (s : State) :
    exec .setAllPorts s =
      withParameters (fun s => complete .ok (s.withTarget allPorts)) s := rfl

theorem exec_isAllPorts (s : State) :
    exec .isAllPorts s =
      withParameters (fun s => completeBool (s.par.target == allPorts) s) s := rfl

theorem exec_setAction (v : Bool) (act : BitVec 4) (id : BitVec 16) (s : State) :
    exec (.setAction v act id) s =
      setActionWith Config.impl v act id s := rfl

theorem exec_build (seq : BitVec 16) (s : State) : exec (.build seq) s = buildWith Config.impl seq s := rfl

theorem exec_buildCap (seq : BitVec 16) (s : State) : exec (.buildCap seq) s = buildCapWith Config.impl seq s := rfl

theorem exec_parse (s : State) : exec .parse s = parseWith Config.impl s := rfl

/-! ### The step -/

/-- Everything a step that answers a next state can have done. -/
theorem step_next {s t : State} (h : step s = .next t) :
    (s.host = [] ∧ t = s) ∨
    (∃ w rest i, s.host = .command w :: rest ∧ decode w = .ok i ∧ exec i (s.withHost rest) = .next t) ∨
    (∃ n rest v, s.host = .readRegister n :: rest ∧ t = (s.withHost rest).withPortOut v) ∨
    (∃ (n : BitVec 8) (rest : List HostStep) (v : Word64) (hn : n.toNat < 8),
      s.host = .writeRegister n v :: rest ∧ t = (s.withHost rest).writeX ⟨n.toNat, hn⟩ v) ∨
    (∃ a o rest, s.host = .writeRx a o :: rest ∧ a < Config.impl.rxSize ∧
      t = (s.withHost rest).withRx (s.rx.write a o)) ∨
    (∃ sp a rest v, s.host = .readOctet sp a :: rest ∧ t = (s.withHost rest).withPortOut v) := by
  unfold step at h
  split at h
  · rename_i hh; cases h; exact .inl ⟨hh, rfl⟩
  · rename_i w rest hh
    split at h
    · rename_i i hd; exact .inr (.inl ⟨w, rest, i, hh, hd, h⟩)
    · cases h
  · rename_i n rest hh
    unfold hostReadRegister at h
    split at h
    · rename_i v _; cases h; exact .inr (.inr (.inl ⟨n, rest, v, hh, rfl⟩))
    · cases h
  · rename_i n v rest hh
    unfold hostWriteRegister at h
    split at h
    · rename_i hn; cases h; exact .inr (.inr (.inr (.inl ⟨n, rest, v, hn, hh, rfl⟩)))
    · cases h
  · rename_i a o rest hh
    unfold hostWriteRx at h
    split at h
    · rename_i ha; cases h; exact .inr (.inr (.inr (.inr (.inl ⟨a, o, rest, hh, ha, rfl⟩))))
    · cases h
  · rename_i sp a rest hh
    unfold hostReadOctet at h
    split at h
    · cases h; exact .inr (.inr (.inr (.inr (.inr ⟨sp, a, rest, _, hh, rfl⟩))))
    · cases h

end Sys2Proof.Machine
end

