-- ==== Sys2Proof/Laws/Engine.lean ====
section
/-! SUPPORT. What the shared operations of the frame engine can do, said once: a sequence of writes, SET_ACTION, BUILD and
PARSE over any parameters (42_frame_engine.md R213 to R251). -/

namespace Sys2Proof.Machine

/-! ### Sequences of writes -/

theorem Memory.writeBytes_append (m : Memory) (a : Nat) (o p : List Octet) :
    m.writeBytes a (o ++ p) = (m.writeBytes a o).writeBytes (a + o.length) p := by
  induction o generalizing m a with
  | nil => rfl
  | cons x o ih => simp only [List.cons_append, Memory.writeBytes, ih, List.length_cons]; congr 1; omega

theorem toNat_advance_of_fits {k : Nat} {s : State} (h : s.cur.toNat + k ≤ s.lim.toNat) :
    (s.cur + BitVec.ofNat 32 k).toNat = s.cur.toNat + k := by
  have := s.lim.isLt
  rw [BitVec.toNat_add, BitVec.toNat_ofNat, Nat.mod_eq_of_lt (by omega : k < 2 ^ 32), Nat.mod_eq_of_lt (by omega)]

@[simp] theorem appended_nil (s : State) : appended [] s = s := by
  simp [appended, advance, State.withTx, State.withCur, Memory.writeBytes]

theorem appended_appended {o p : List Octet} {s : State} (h : s.cur.toNat + o.length ≤ s.lim.toNat) :
    appended p (appended o s) = appended (o ++ p) s := by
  simp only [appended, advance, State.withTx, State.withCur, toNat_advance_of_fits h, Memory.writeBytes_append,
    List.length_append, BitVec.ofNat_add, BitVec.add_assoc]

theorem left_appended {o : List Octet} {s : State} (h : s.cur.toNat + o.length ≤ s.lim.toNat) :
    left (appended o s) = left s - o.length := by
  have := toNat_advance_of_fits h
  simp only [left, appended, advance, State.withTx, State.withCur, this]
  omega

/-- A sequence of writes succeeds exactly where all of it fits, and is then one write. -/
theorem wrFields_eq {os : List (List Octet)} {s : State} (hs : s.cur.toNat ≤ s.lim.toNat) :
    wrFields os s = if left s < os.flatten.length then .error .tooSmall else .ok (appended os.flatten s) := by
  induction os generalizing s with
  | nil => simp [wrFields]
  | cons o os ih =>
    simp only [wrFields, wrBlock, List.flatten_cons, List.length_append]
    by_cases ho : left s < o.length
    · rw [if_pos ho, if_pos (by omega)]
    · rw [if_neg ho]
      have hf : s.cur.toNat + o.length ≤ s.lim.toNat := by unfold left at ho; omega
      have hc : (appended o s).cur.toNat = s.cur.toNat + o.length := toNat_advance_of_fits hf
      have := ih (s := appended o s) (by rw [hc]; exact hf)
      rw [left_appended hf, appended_appended hf] at this
      refine this.trans ?_
      split_ifs <;> first | rfl | omega

/-! ### Boolean results -/

theorem completeBool_eq (b : Bool) (s : State) :
    completeBool b s = .next { s with x := { s.x with x0 := boolWord b }, st := .ok } := rfl

/-! ### SET_ACTION -/

/-- Everything SET_ACTION can do. -/
theorem setActionWith_next {c : Impl} {v : Bool} {act : BitVec 4} {id : BitVec 16} {s t : State}
    (h : setActionWith c v act id s = .next t) :
    s.pv = true ∧
      ((actionAccepted c s.par act id = true ∧
          t = { s with x := { s.x with x0 := 1 }, st := .ok, av := true, draws := s.draws + 1,
                       act := acceptedAction v act id s }) ∨
    (actionAccepted c s.par act id = false ∧ t = { s with x := { s.x with x0 := 0 }, st := .ok })) := by
  obtain ⟨hp, h⟩ := withParameters_next h
  refine ⟨hp, ?_⟩
  split at h
  · rename_i ha; cases h; exact .inl ⟨ha, rfl⟩
  · rename_i ha; cases h; exact .inr ⟨by simpa using ha, rfl⟩

theorem setActionWith_accepted {c : Impl} {v : Bool} {act : BitVec 4} {id : BitVec 16} {s : State} (hp : s.pv = true)
    (ha : actionAccepted c s.par act id = true) :
    setActionWith c v act id s = .next { s with x := { s.x with x0 := 1 }, st := .ok, av := true, draws := s.draws + 1,
                                                act := acceptedAction v act id s } := by
  unfold setActionWith withParameters; rw [if_pos hp]; exact (if_pos ha).trans rfl

theorem setActionWith_rejected {c : Impl} {v : Bool} {act : BitVec 4} {id : BitVec 16} {s : State} (hp : s.pv = true)
    (ha : actionAccepted c s.par act id = false) :
    setActionWith c v act id s = .next { s with x := { s.x with x0 := 0 }, st := .ok } := by
  unfold setActionWith withParameters; rw [if_pos hp]; exact (if_neg (by simp [ha])).trans rfl

/-! ### BUILD -/

/-- Of fields that share no octet, each stands at its offset. -/
theorem octetAt_of_mem {fields : List (Nat × List Octet)} {a j : Nat} {o : List Octet}
    (hp : fields.Pairwise fun f g => SpansApart (f.1, f.2.length) (g.1, g.2.length)) (hm : (a, o) ∈ fields)
    (hj : j < o.length) : octetAt fields (a + j) = o[j] := by
  induction fields with
  | nil => cases hm
  | cons f rest ih =>
    obtain ⟨b, q⟩ := f
    rw [List.pairwise_cons] at hp
    rcases List.mem_cons.1 hm with h | h
    · cases h
      rw [octetAt, if_pos (by omega), Nat.add_sub_cancel_left, List.getD_eq_getElem _ _ hj]
    · have := hp.1 _ h
      simp only [SpansApart] at this
      rw [octetAt, if_neg (by omega), ih hp.2 h]

/-- Where no field lies the header is zero (R120). -/
theorem octetAt_elsewhere {fields : List (Nat × List Octet)} {j : Nat}
    (h : ∀ f ∈ fields, j < f.1 ∨ f.1 + f.2.length ≤ j) : octetAt fields j = 0 := by
  induction fields with
  | nil => rfl
  | cons f rest ih =>
    have := h f List.mem_cons_self
    rw [octetAt, if_neg (by omega), ih fun g hg => h g (List.mem_cons_of_mem _ hg)]

theorem headerFields_spans (l : HeaderLayout) (par : ParamRegs) (seq : BitVec 16) :
    (headerFields l par seq).map (fun f => (f.1, f.2.length)) = l.spans := by
  simp [headerFields, HeaderLayout.spans, portIdFields, clockIdOctets]

theorem HeaderLayout.wf_iff (l : HeaderLayout) : l.wf = true ↔
    (∀ f ∈ l.spans, f.1 + f.2 ≤ ptpHeaderLen) ∧ l.spans.Pairwise SpansApart ∧
      l.unicastMask ∈ [0x01, 0x02, 0x04, 0x08, 0x10, 0x20, 0x40, 0x80] := decide_eq_true_iff

@[simp] theorem ptpHeader_length (l : HeaderLayout) (par : ParamRegs) (seq : BitVec 16) :
    (ptpHeader l par seq).flatten.length = 34 := by simp [ptpHeader, ptpHeaderLen, List.length_flatten, Function.comp_def]

/-- Every field of the header BUILD writes stands at its offset (R223). -/
theorem ptpHeader_field {l : HeaderLayout} (hl : l.wf = true) {par : ParamRegs} {seq : BitVec 16} {a j : Nat}
    {o : List Octet} (hm : (a, o) ∈ headerFields l par seq) (hj : j < o.length) :
    octetAt (headerFields l par seq) (a + j) = o[j] := by
  refine octetAt_of_mem ?_ hm hj
  have h := ((HeaderLayout.wf_iff l).1 hl).2.1
  rwa [← headerFields_spans l par seq, List.pairwise_map] at h

/-- At the recommended offsets the header is the sequence of writes of R223. -/
theorem ptpHeader_recommended (par : ParamRegs) (seq : BitVec 16) :
    (ptpHeader .recommended par seq).flatten =
      [(par.ts ++ messageType : Octet), 0#4 ++ versionPtp] ++ bytesBE 2 0 ++
        [par.domain, 0, if par.unicast then 0x04 else 0, 0] ++ bytesBE 8 0 ++ bytesBE 4 0 ++
        (portIdFields par.selfId).flatten ++ bytesBE 2 (seq.setWidth 64) ++ [controlField, logMessageInterval] := rfl

theorem offMsgLen_fits (c : Impl) : c.header.offMsgLen + 2 ≤ 34 :=
  ((HeaderLayout.wf_iff _).1 c.headerOk).1 (_, 2) (by simp [HeaderLayout.spans])

/-- The octets of the headers, `tlvType`, a place for `lengthField`, and the ID (R223 to R225). -/
def messageHead (l : HeaderLayout) (par : ParamRegs) (act : ActionRegs) (seq : BitVec 16) : List Octet :=
  (ptpHeader l par seq ++ managementHeaderFields par act.action).flatten ++
    (bytesBE 2 (tlvManagement.setWidth 64) ++ (bytesBE 2 0 ++ bytesBE 2 (act.id.setWidth 64)))

theorem headers_length (l : HeaderLayout) (par : ParamRegs) (act : BitVec 4) (seq : BitVec 16) :
    (ptpHeader l par seq ++ managementHeaderFields par act).flatten.length = 48 := by
  rw [List.flatten_append, List.length_append, ptpHeader_length]
  simp [managementHeaderFields, portIdFields, clockIdOctets]

theorem messageHead_length (l : HeaderLayout) (par : ParamRegs) (act : ActionRegs) (seq : BitVec 16) :
    (messageHead l par act seq).length = 54 := by
  rw [messageHead, List.length_append, headers_length]
  simp

/-- The pad of a dataField (R228). -/
def padding (data : List Octet) : List Octet := if data.length % 2 = 1 then [0] else []

theorem flatten_singletons (o : List Octet) : (o.map fun b => [b]).flatten = o := by
  induction o with
  | nil => rfl
  | cons a o ih => simp only [List.map_cons, List.flatten_cons, ih]; rfl

theorem appended_cur_toNat {o : List Octet} {s : State} (h : s.cur.toNat + o.length ≤ s.lim.toNat) :
    (appended o s).cur.toNat = s.cur.toNat + o.length := toNat_advance_of_fits h

@[simp] theorem appended_lim (o : List Octet) (s : State) : (appended o s).lim = s.lim := rfl
@[simp] theorem appended_par (o : List Octet) (s : State) : (appended o s).par = s.par := rfl
@[simp] theorem appended_act (o : List Octet) (s : State) : (appended o s).act = s.act := rfl
@[simp] theorem appended_tx (o : List Octet) (s : State) : (appended o s).tx = s.tx.writeBytes s.cur.toNat o := rfl

/-- The dataField part of a build, from the cursor past the TLV head on. -/
theorem buildDataField_eq (c : Impl) {s : State} (hs : s.cur.toNat ≤ s.lim.toNat) (hc : s.cur.toNat = 54) :
    buildDataField c 50 s =
      match c.procBuild s.act.id s.act.action (attachedValue s.act) with
      | .error e => .error (codeOfProcError e)
      | .ok data =>
        if left s < (data ++ padding data).length then .error .tooSmall
        else .ok (backfill c.header 50 (appended (data ++ padding data) s)) := by
  unfold buildDataField
  cases hb : c.procBuild s.act.id s.act.action (attachedValue s.act) with
  | error e => rfl
  | ok data =>
    simp only
    rw [wrFields_eq hs, flatten_singletons]
    by_cases h1 : left s < data.length
    · rw [if_pos h1]
      simp only
      rw [if_pos (by simp; omega)]
    · rw [if_neg h1]
      have hf : s.cur.toNat + data.length ≤ s.lim.toNat := by unfold left at h1; omega
      have hcur := appended_cur_toNat hf
      simp only [padIfOdd, hcur, hc]
      have hmod : (54 + data.length - (50 + 2)) % 2 = data.length % 2 := by omega
      rw [hmod]
      by_cases hp : data.length % 2 = 1
      · simp only [hp, if_true, padding, wrBE, wrBlock, left_appended hf, bytesBE_length, List.length_append,
          List.length_singleton]
        by_cases h2 : left s - data.length < 8 / 8
        · rw [if_pos h2, if_pos (by omega)]
        · rw [if_neg h2, if_neg (by omega)]
          have h0 : bytesBE (8 / 8) 0 = [0] := rfl
          have := appended_appended (p := [0]) hf
          rw [h0]
          show Except.ok (backfill c.header 50 (appended [0] (appended data s))) = _
          rw [this]
      · simp only [hp, if_false, padding, List.append_nil, if_neg h1]

/-- A build from offset 0: the gate, the capacity for the head, the processor's answer, the capacity for the rest. -/
theorem buildMessage_eq (c : Impl) (seq : BitVec 16) {s : State} (hc : s.cur = 0) :
    buildMessage c seq s =
      if buildGated c s = true then .error .unsupport
      else if s.lim.toNat < 54 then .error .tooSmall
      else
        match c.procBuild s.act.id s.act.action (attachedValue s.act) with
        | .error e => .error (codeOfProcError e)
        | .ok data =>
          if s.lim.toNat < 54 + (data ++ padding data).length then .error .tooSmall
          else .ok (backfill c.header 50 (appended (messageHead c.header s.par s.act seq ++ (data ++ padding data)) s)) := by
  unfold buildMessage
  split
  · rfl
  · have h0 : s.cur.toNat = 0 := by simp [hc]
    have hl : left s = s.lim.toNat := by simp [left, h0]
    rw [wrFields_eq (by omega), headers_length, hl]
    by_cases h1 : s.lim.toNat < 48
    · rw [if_pos h1, if_pos (by omega)]
    · rw [if_neg h1]
      set hd := (ptpHeader c.header s.par seq ++ managementHeaderFields s.par s.act.action).flatten with hhd
      have hlen : hd.length = 48 := headers_length _ _ _ _
      have hf : s.cur.toNat + hd.length ≤ s.lim.toNat := by omega
      simp only [buildTlv, wrBE, wrBlock, left_appended hf, hl, hlen, bytesBE_length]
      by_cases h2 : s.lim.toNat - 48 < 16 / 8
      · rw [if_pos h2, if_pos (by omega)]
      · rw [if_neg h2]
        have e2 : advance (16 / 8) ((appended hd s).withTx ((appended hd s).tx.writeBytes (appended hd s).cur.toNat
            (bytesBE (16 / 8) (tlvManagement.setWidth 64)))) =
            appended (hd ++ bytesBE 2 (tlvManagement.setWidth 64)) s := appended_appended hf
        rw [e2]
        have hl2 : (hd ++ bytesBE 2 (tlvManagement.setWidth 64)).length = 50 := by simp [hlen]
        have hf2 : s.cur.toNat + (hd ++ bytesBE 2 (tlvManagement.setWidth 64)).length ≤ s.lim.toNat := by omega
        have hc2 := appended_cur_toNat hf2
        simp only
        rw [wrFields_eq (by rw [hc2]; simp only [appended_lim]; omega), left_appended hf2, hl, hl2]
        have hl3 : ([bytesBE 2 0, bytesBE 2 (s.act.id.setWidth 64)] : List (List Octet)).flatten.length = 4 := by simp
        simp only [appended_act, hl3]
        by_cases h3 : s.lim.toNat - 50 < 4
        · rw [if_pos h3, if_pos (by omega)]
        · rw [if_neg h3, if_neg (by omega), appended_appended hf2]
          have ehead : hd ++ bytesBE 2 (tlvManagement.setWidth 64) ++
              ([bytesBE 2 0, bytesBE 2 (s.act.id.setWidth 64)] : List (List Octet)).flatten = messageHead c.header s.par s.act
                  seq := by
            simp [messageHead, hhd]
          rw [ehead, hc2, hl2, h0]
          have hl4 := messageHead_length c.header s.par s.act seq
          have hf4 : s.cur.toNat + (messageHead c.header s.par s.act seq).length ≤ s.lim.toNat := by omega
          have hc4 := appended_cur_toNat hf4
          simp only
          rw [buildDataField_eq c (by rw [hc4]; simp only [appended_lim]; omega) (by omega)]
          simp only [appended_act]
          cases hb : c.procBuild s.act.id s.act.action (attachedValue s.act) with
          | error e => rfl
          | ok data =>
            simp only [left_appended hf4, hl, hl4, appended_appended hf4]
            split_ifs <;> first | rfl | omega

theorem withParameters_of_pv {f : State → Result} {s : State} (h : s.pv = true) : withParameters f s = f s := if_pos h

theorem withParameters_refused {f : State → Result} {s : State} (h : s.pv = false) :
    withParameters f s = .refused .parametersNotValid := if_neg (by simp [h])

theorem whenBuildable_of_valid {f : State → Result} {s : State} (hp : s.pv = true) (ha : s.av = true) :
    whenBuildable f s = f s := (withParameters_of_pv hp).trans (if_pos ha)

theorem whenBuildable_next {f : State → Result} {s t : State} (h : whenBuildable f s = .next t) :
    s.pv = true ∧ s.av = true ∧ f s = .next t := by
  obtain ⟨hp, h⟩ := withParameters_next h
  split at h
  · exact ⟨hp, by assumption, h⟩
  · cases h

/-- BUILD always completes: its code, and the state it leaves, follow from `buildMessage`. -/
theorem buildInto_eq (c : Impl) (cap : Nat) (seq : BitVec 16) (s : State) :
    buildInto c cap seq s =
      match buildMessage c seq (openWindow .build 0 cap s) with
      | .ok t => buildDone t
      | .error e => buildFailed c e s := rfl

/-- A successful build, from the state it started in. -/
theorem buildInto_done {c : Impl} {cap : Nat} {seq : BitVec 16} {s t u : State}
    (hm : buildMessage c seq (openWindow .build 0 cap s) = .ok u) (h : buildInto c cap seq s = .next t) :
    t = (closeTakenWindow (u.writeX 0 (u.cur.setWidth 64))).withDraw.withStatus .ok := by
  rw [buildInto_eq, hm] at h; cases h; rfl

/-- Everything BUILD can do with a capacity: a code and free values, or the message. -/
theorem buildInto_next {c : Impl} {cap : Nat} {seq : BitVec 16} {s t : State} (hcap : cap < 2 ^ 32)
    (h : buildInto c cap seq s = .next t) :
    (∃ e, t = (closeTakenWindow ((s.withTx (Memory.ofOctets 0 (freeOctets s.draws .tx 0 c.txSize))).writeX 0
          (s.free .x0 64))).withDraw.withStatus e ∧
        ((buildGated c s = true ∧ e = .unsupport) ∨
         (buildGated c s = false ∧ cap < 54 ∧ e = .tooSmall) ∨
         (buildGated c s = false ∧ 54 ≤ cap ∧
            ∃ p, c.procBuild s.act.id s.act.action (attachedValue s.act) = .error p ∧ e = codeOfProcError p) ∨
         (buildGated c s = false ∧ 54 ≤ cap ∧
            ∃ data, c.procBuild s.act.id s.act.action (attachedValue s.act) = .ok data ∧
              cap < 54 + (data ++ padding data).length ∧ e = .tooSmall))) ∨
    (buildGated c s = false ∧ ∃ data, c.procBuild s.act.id s.act.action (attachedValue s.act) = .ok data ∧
      54 + (data ++ padding data).length ≤ cap ∧
      t = (closeTakenWindow ((s.withTx
            (((s.tx.writeBytes 0 (messageHead c.header s.par s.act seq ++ (data ++ padding data))).writeBytes 50
                (bytesBE 2 (BitVec.ofNat 64 (2 + (data ++ padding data).length)))).writeBytes c.header.offMsgLen
              (bytesBE 2 (BitVec.ofNat 64 (54 + (data ++ padding data).length))))).writeX 0
            (BitVec.ofNat 64 (54 + (data ++ padding data).length)))).withDraw.withStatus .ok) := by
  have hlim : (openWindow .build 0 cap s).lim.toNat = cap := by
    rw [openWindow_lim, BitVec.toNat_ofNat, Nat.mod_eq_of_lt hcap]
  have heq := buildMessage_eq c seq (s := openWindow .build 0 cap s) rfl
  have hg : buildGated c (openWindow .build 0 cap s) = buildGated c s := rfl
  rw [hlim, hg] at heq
  rw [buildInto_eq, heq] at h
  by_cases h1 : buildGated c s = true
  · rw [if_pos h1] at h; cases h
    exact .inl ⟨_, rfl, .inl ⟨h1, rfl⟩⟩
  · rw [if_neg h1] at h
    have h1 : buildGated c s = false := by simpa using h1
    by_cases h2 : cap < 54
    · rw [if_pos h2] at h; cases h
      exact .inl ⟨_, rfl, .inr (.inl ⟨h1, h2, rfl⟩)⟩
    · rw [if_neg h2] at h
      have h2 : 54 ≤ cap := by omega
      simp only [openWindow_act] at h
      cases hb : c.procBuild s.act.id s.act.action (attachedValue s.act) with
      | error p =>
        rw [hb] at h; cases h
        exact .inl ⟨_, rfl, .inr (.inr (.inl ⟨h1, h2, p, rfl, rfl⟩))⟩
      | ok data =>
        rw [hb] at h
        simp only at h
        by_cases h3 : cap < 54 + (data ++ padding data).length
        · rw [if_pos h3] at h; cases h
          exact .inl ⟨_, rfl, .inr (.inr (.inr ⟨h1, h2, data, rfl, h3, rfl⟩))⟩
        · rw [if_neg h3] at h
          have h3 : 54 + (data ++ padding data).length ≤ cap := by omega
          refine .inr ⟨h1, data, rfl, h3, ?_⟩
          have hlen : (messageHead c.header s.par s.act seq ++ (data ++ padding data)).length = 54 +
              (data ++ padding data).length := by
            rw [List.length_append, messageHead_length]
          have hc : (appended (messageHead c.header s.par s.act seq ++ (data ++ padding data)) (openWindow .build 0 cap s)).cur =
              BitVec.ofNat 32 (54 + (data ++ padding data).length) := by
            simp [appended, hlen]
          have hn : (BitVec.ofNat 32 (54 + (data ++ padding data).length)).toNat = 54 +
              (data ++ padding data).length := by
            rw [BitVec.toNat_ofNat, Nat.mod_eq_of_lt (by omega)]
          have hw : (BitVec.ofNat 32 (54 + (data ++ padding data).length)).setWidth 64 =
              BitVec.ofNat 64 (54 + (data ++ padding data).length) := by
            apply BitVec.eq_of_toNat_eq
            rw [BitVec.toNat_setWidth, hn, BitVec.toNat_ofNat]
          have hsub : 54 + (data ++ padding data).length - (50 + 2) = 2 + (data ++ padding data).length := by omega
          simp only [buildDone, complete, backfill, openWindow_par, hc, hn, hw, hsub] at h
          injection h with h
          rw [← h]
          simp only [State.withTx_cur, hc, hw]
          simp only [closeTakenWindow, State.withDraw, State.withStatus, State.withDir, State.withCur, State.withLim,
            State.withTx, State.writeX, State.free, appended, advance, openWindow, BitVec.toNat_ofNat,
            Nat.zero_mod]

/-- A build answers one of its outcomes whatever the state. -/
theorem buildInto_completes (c : Impl) (cap : Nat) (seq : BitVec 16) (s : State) : ∃ t, buildInto c cap seq s = .next
    t := by
  rw [buildInto_eq]
  split
  · exact ⟨_, rfl⟩
  · exact ⟨_, rfl⟩

/-! ### PARSE -/

/-- Everything PARSE can do. -/
theorem parseWith_next {c : Impl} {s t : State} (h : parseWith c s = .next t) :
    s.pv = true ∧ s.x.x0.toNat ≤ c.rxSize ∧
      t = (closeTakenWindow ((s.withResults (parseResults (parseMessage c s.x.x0.toNat s) s)).withDisp
            (displayAfter (parseMessage c s.x.x0.toNat s).text s))).withDraw.withStatus
            (parseMessage c s.x.x0.toNat s).code := by
  obtain ⟨hp, h⟩ := withParameters_next h
  split at h
  · rename_i hn; cases h; exact ⟨hp, hn, rfl⟩
  · cases h

theorem parseWith_of_fits {c : Impl} {s : State} (hp : s.pv = true) (hn : s.x.x0.toNat ≤ c.rxSize) :
    parseWith c s = parseDone (parseMessage c s.x.x0.toNat s) s := (withParameters_of_pv hp).trans (if_pos hn)

/-- How PARSE of a MANAGEMENT TLV can end, once the ID was read (R241 to R247). -/
theorem parseData_cases (c : Impl) (par : ParamRegs) (h : ParsedHeader) (id : BitVec 16) (o : List Octet) :
    (∃ e, parseData c par h id o = .failed e ∧ e ≠ .ok ∧ e ≠ .msg) ∨
    (h.action = 0 ∧ parseData c par h id o = .request h id) ∨
    (h.action ≠ 0 ∧ ∃ v, c.procParse id h.action o = .ok v ∧ parseData c par h id o = .decoded h id v) := by
  unfold parseData
  split
  · exact .inl ⟨_, rfl, by decide, by decide⟩
  · split_ifs with h1 h2 h3 h4 h5 h6
    · exact .inl ⟨_, rfl, by decide, by decide⟩
    · exact .inl ⟨_, rfl, by decide, by decide⟩
    · exact .inl ⟨_, rfl, by decide, by decide⟩
    · exact .inl ⟨_, rfl, by decide, by decide⟩
    · exact .inr (.inl ⟨h5, rfl⟩)
    · exact .inl ⟨_, rfl, by decide, by decide⟩
    · split
      · rename_i e _; exact .inl ⟨_, rfl, by cases e <;> decide, by cases e <;> decide⟩
      · rename_i v hv; exact .inr (.inr ⟨h5, v, hv, rfl⟩)

end Sys2Proof.Machine
end

