-- ==== Sys2Proof/Laws/Effect.lean ====
section
/-! SUPPORT. The codec commands case by case, and what every command can do, said once: `exec_effect`, which the frames and
the invariants cite instead of unfolding `exec`. -/

namespace Sys2Proof.Machine

/-! ### One primitive -/
theorem readInteger_of {rd : State → Except Code (Word64 × State)} {k : Nat} {s : State} {v : Word64}
    (hd : s.dir = .parse) (h : rd s = .ok (v, advance k s)) :
    readInteger rd s =
      .next { s with x := { s.x with x0 := v }, cur := s.cur + BitVec.ofNat 32 k, st := .ok } := by
  unfold readInteger whileParsing; rw [if_pos hd]; show (match rd s with | .error e => _ | .ok (v,t) => _) = _
  rw [h]; rfl

theorem readInteger_err {rd : State → Except Code (Word64 × State)} {s : State} {e : Code} (hd : s.dir = .parse)
    (h : rd s = .error e) : readInteger rd s = .next { s with st := e } := by
  unfold readInteger whileParsing; rw [if_pos hd]; show (match rd s with | .error e => _ | .ok (v,t) => _) = _
  rw [h]; rfl

theorem writeInteger_of {p} {wr : Word64 → State → Except Code State} {s : State} {o : List Octet}
    (hd : s.dir = .build) (hp : p s.x.x0 = true) (h : wr s.x.x0 s = .ok (appended o s)) :
    writeInteger p wr s =
      .next { s with tx := s.tx.writeBytes s.cur.toNat o, cur := s.cur + BitVec.ofNat 32 o.length, st := .ok } := by
  unfold writeInteger whileBuilding; rw [if_pos hd]
  refine (if_pos hp).trans ?_
  show (match wr s.x.x0 s with | .error e => _ | .ok t => _) = _
  rw [h]; rfl

theorem writeInteger_err {p} {wr : Word64 → State → Except Code State} {s : State} {e : Code} (hd : s.dir = .build)
    (hp : p s.x.x0 = true)
    (h : wr s.x.x0 s = .error e) :
    writeInteger p wr s = .next { s with st := e } := by
  unfold writeInteger whileBuilding; rw [if_pos hd]
  refine (if_pos hp).trans ?_
  show (match wr s.x.x0 s with | .error e => _ | .ok t => _) = _
  rw [h]; rfl

theorem writeInteger_val {p} {wr : Word64 → State → Except Code State} {s : State} (hd : s.dir = .build)
    (hp : p s.x.x0 = false) :
    writeInteger p wr s = .next { s with st := .val } := by
  unfold writeInteger whileBuilding; rw [if_pos hd]
  exact (if_neg (by rw [State.readX_0]; simp [hp])).trans rfl

/-! ### Two primitives -/
theorem readPair_of {r₀ r₁ : State → Except Code (Word64 × State)} {a b : Nat} {s : State} {v w : Word64}
    (hd : s.dir = .parse) (h0 : r₀ s = .ok (v, advance a s))
    (h1 : r₁ (advance a s) = .ok (w, advance b (advance a s))) :
    readPair r₀ r₁ s =
      .next { s with x := { s.x with x0 := v, x1 := w }, cur := s.cur + BitVec.ofNat 32 a + BitVec.ofNat 32 b,
                     st := .ok } := by
  unfold readPair whileParsing; rw [if_pos hd]; show (match r₀ s with | .error e => _ | .ok (v,t) => _) = _
  rw [h0]; show (match r₁ (advance a s) with | .error e => _ | .ok (v,t) => _) = _
  rw [h1]; rfl

theorem readPair_err0 {r₀ r₁ : State → Except Code (Word64 × State)} {s : State} {e : Code} (hd : s.dir = .parse)
    (h0 : r₀ s = .error e) : readPair r₀ r₁ s = .next { s with st := e } := by
  unfold readPair whileParsing; rw [if_pos hd]; show (match r₀ s with | .error e => _ | .ok (v,t) => _) = _
  rw [h0]; rfl

theorem readPair_err1 {r₀ r₁ : State → Except Code (Word64 × State)} {s : State} {a : Nat} {v : Word64} {e : Code}
    (hd : s.dir = .parse) (h0 : r₀ s = .ok (v, advance a s)) (h1 : r₁ (advance a s) = .error e) :
    readPair r₀ r₁ s = .next { s with cur := s.cur + BitVec.ofNat 32 a, st := e } := by
  unfold readPair whileParsing; rw [if_pos hd]; show (match r₀ s with | .error e => _ | .ok (v,t) => _) = _
  rw [h0]; show (match r₁ (advance a s) with | .error e => _ | .ok (v,t) => _) = _
  rw [h1]; rfl

theorem writePair_body {p} {w₀ w₁ : Word64 → State → Except Code State} {s : State} (hd : s.dir = .build)
    (hp : p s.x.x0 = true) :
  writePair p w₀ w₁ s = match w₀ s.x.x0 s with
      | .error e => complete e s
      | .ok t =>
        match w₁ s.x.x1 t with
        | .error e => complete e t
        | .ok u => complete .ok u := by
  unfold writePair whileBuilding; rw [if_pos hd]; exact if_pos hp

theorem writePair_val {p} {w₀ w₁ : Word64 → State → Except Code State} {s : State} (hd : s.dir = .build)
    (hp : p s.x.x0 = false) :
  writePair p w₀ w₁ s = .next { s with st := .val } := by
  unfold writePair whileBuilding; rw [if_pos hd]; exact (if_neg (by rw [State.readX_0]; simp [hp])).trans rfl

/-! ### Reading back -/

theorem Memory.readBytes_writeBytes (m : Memory) (a : Nat) (o : List Octet) :
    (m.writeBytes a o).readBytes a o.length = o := by
  apply List.ext_getElem
  · simp
  · intro j h1 h2
    rw [Memory.readBytes_getElem, Memory.read_writeBytes, dif_pos (by omega)]
    congr 1; omega

/-! ### What a command can do -/

/-- A read of `k` octets consumes them or answers `TOO_SMALL`. -/
theorem readInteger_effect {rd : State → Except Code (Word64 × State)} {k}
    (h1 : ∀ s, k ≤ left s → ∃ v, rd s = .ok (v, advance k s)) (h2 : ∀ s, left s < k → rd s = .error .tooSmall)
    {s t : State} (h : readInteger rd s = .next t) : s.dir = .parse ∧ (t = s.withStatus .tooSmall ∨
    (k ≤ left s ∧ ∃ v, t = ((advance k s).writeX 0 v).withStatus .ok)) := by
  obtain ⟨hd, ⟨e, he, rfl⟩ | ⟨v, u, hu, rfl⟩⟩ := readInteger_next h
  · rcases Nat.lt_or_ge (left s) k with hl | hl
    · rw [h2 s hl] at he; cases he; exact ⟨hd, .inl rfl⟩
    · obtain ⟨v, hv⟩ := h1 s hl; rw [hv] at he; cases he
  · rcases Nat.lt_or_ge (left s) k with hl | hl
    · rw [h2 s hl] at hu; cases hu
    · obtain ⟨v', hv⟩ := h1 s hl; rw [hv] at hu; cases hu; exact ⟨hd, .inr ⟨hl, _, rfl⟩⟩

/-- What a codec command can leave: all of its primitives done, some of them, or a failed range check (R186, R190). -/
inductive CodecEffect (s : State) : Instr → State → Prop
  | read (i v k) (hi : i ∈ readCommands) (hd : s.dir = .parse) (hk : k ≤ left s)
      (hx : i ∉ [Instr.rdTimestamp, .rdPortid]) :
      CodecEffect s i (((advance k s).writeX 0 v).withStatus .ok)
  | read2 (i v w k) (hi : i ∈ readCommands) (hd : s.dir = .parse) (hk : k ≤ left s)
      (hx : i ∈ [Instr.rdTimestamp, .rdPortid]) :
      CodecEffect s i ((((advance k s).writeX 0 v).writeX 1 w).withStatus .ok)
  | readShort (i k) (hi : i ∈ readCommands) (hd : s.dir = .parse) (hk : k ≤ left s) :
      CodecEffect s i ((advance k s).withStatus .tooSmall)
  | write (i o e) (hi : i ∈ writeCommands) (hd : s.dir = .build) (ho : o.length ≤ left s)
      (he : e = .ok ∨ e = .tooSmall) : CodecEffect s i ((appended o s).withStatus e)
  | range (i) (hi : i ∈ [Instr.wrU48, .wrI48, .wrTimestamp]) (hd : s.dir = .build) :
      CodecEffect s i (s.withStatus .val)

theorem advance_zero (s : State) : advance 0 s = s := by simp [advance, State.withCur]

theorem codecEffect_read {rd : State → Except Code (Word64 × State)} {k}
    (h1 : ∀ s, k ≤ left s → ∃ v, rd s = .ok (v, advance k s)) (h2 : ∀ s, left s < k → rd s = .error .tooSmall)
    {s t : State} (i) (hi : i ∈ readCommands) (hx : i ∉ [Instr.rdTimestamp, .rdPortid])
    (h : readInteger rd s = .next t) : CodecEffect s i t := by
  obtain ⟨hd, rfl | ⟨hk, v, rfl⟩⟩ := readInteger_effect h1 h2 h
  · have := CodecEffect.readShort i 0 hi hd (Nat.zero_le _); rwa [advance_zero] at this
  · exact .read i v k hi hd hk hx

theorem codecEffect_write {p} {wr : Word64 → State → Except Code State} {o : Word64 → List Octet}
    (hw : ∀ v s, wr v s = wrBlock (o v) s) {s t : State} (i) (hi : i ∈ writeCommands)
    (hp : i ∈ [Instr.wrU48, .wrI48, .wrTimestamp] ∨ p = anyValue)
    (h : writeInteger p wr s = .next t) : CodecEffect s i t := by
  obtain ⟨hd, ⟨hf, rfl⟩ | ⟨_, ⟨e, he, rfl⟩ | ⟨u, hu, rfl⟩⟩⟩ := writeInteger_next h
  · rcases hp with hp | rfl
    · exact .range i hp hd
    · cases hf
  · rw [hw] at he
    obtain ⟨_, rfl⟩ := wrBlock_error he
    have := CodecEffect.write (s := s) i [] .tooSmall hi hd (Nat.zero_le _) (.inr rfl)
    rwa [appended_nil] at this
  · rw [hw] at hu
    obtain ⟨hl, rfl⟩ := wrBlock_ok hu
    exact .write i _ _ hi hd hl (.inl rfl)

theorem left_of_advance {s : State} {a b} (ha : a ≤ left s) (hb : b ≤ left (advance a s)) : a + b ≤ left s ∨ a = 0 := by
  rcases Nat.eq_zero_or_pos a with h | h
  · exact .inr h
  · rw [left_advance ha (by unfold left at ha; omega)] at hb; left; omega

theorem advance_advance (a b : Nat) (s : State) : advance b (advance a s) = advance (a + b) s := by
  simp [advance, State.withCur, BitVec.ofNat_add, BitVec.add_assoc]

theorem codecEffect_readPair {r₀ r₁ : State → Except Code (Word64 × State)} {a b} (ha0 : 0 < a)
    (h1 : ∀ s, a ≤ left s → ∃ v, r₀ s = .ok (v, advance a s)) (h2 : ∀ s, left s < a → r₀ s = .error .tooSmall)
    (h3 : ∀ s, b ≤ left s → ∃ v, r₁ s = .ok (v, advance b s)) (h4 : ∀ s, left s < b → r₁ s = .error .tooSmall)
    {s t : State} (i) (hi : i ∈ readCommands) (hx : i ∈ [Instr.rdTimestamp, .rdPortid])
    (h : readPair r₀ r₁ s = .next t) : CodecEffect s i t := by
  obtain ⟨hd, ⟨e, he, rfl⟩ | ⟨v, u, e, hu, he, rfl⟩ | ⟨v, u, w, z, hu, hz, rfl⟩⟩ := readPair_next h
  · rcases Nat.lt_or_ge (left s) a with hl | hl
    · rw [h2 s hl] at he; cases he
      have := CodecEffect.readShort i 0 hi hd (Nat.zero_le _); rwa [advance_zero] at this
    · obtain ⟨v, hv⟩ := h1 s hl; rw [hv] at he; cases he
  · rcases Nat.lt_or_ge (left s) a with hl | hl
    · rw [h2 s hl] at hu; cases hu
    obtain ⟨v', hv⟩ := h1 s hl; rw [hv] at hu; cases hu
    rcases Nat.lt_or_ge (left (advance a s)) b with hl2 | hl2
    · rw [h4 _ hl2] at he; cases he; exact .readShort i a hi hd hl
    · obtain ⟨v, hv⟩ := h3 _ hl2; rw [hv] at he; cases he
  · rcases Nat.lt_or_ge (left s) a with hl | hl
    · rw [h2 s hl] at hu; cases hu
    obtain ⟨v', hv⟩ := h1 s hl; rw [hv] at hu; cases hu
    rcases Nat.lt_or_ge (left (advance a s)) b with hl2 | hl2
    · rw [h4 _ hl2] at hz; cases hz
    · obtain ⟨v', hv⟩ := h3 _ hl2; rw [hv] at hz; cases hz
      rw [advance_advance]
      refine .read2 i _ _ _ hi hd ?_ hx
      rcases left_of_advance hl hl2 with h | h
      · exact h
      · omega

theorem codecEffect_writePair {p} {w₀ w₁ : Word64 → State → Except Code State} {o q : Word64 → List Octet} {a : Nat}
    (ha : 0 < a) (hol : ∀ v, (o v).length = a)
    (hw : ∀ v s, w₀ v s = wrBlock (o v) s) (hw1 : ∀ v s, w₁ v s = wrBlock (q v) s) {s t : State} (i)
    (hi : i ∈ writeCommands) (hp : i ∈ [Instr.wrU48, .wrI48, .wrTimestamp] ∨ p = anyValue)
    (h : writePair p w₀ w₁ s = .next t) : CodecEffect s i t := by
  obtain ⟨hd, ⟨hf, rfl⟩ | ⟨_, ⟨e, he, rfl⟩ | ⟨u, e, hu, he, rfl⟩ | ⟨u, z, hu, hz, rfl⟩⟩⟩ := writePair_next h
  · rcases hp with hp | rfl
    · exact .range i hp hd
    · cases hf
  · rw [hw] at he
    obtain ⟨_, rfl⟩ := wrBlock_error he
    have := CodecEffect.write (s := s) i [] .tooSmall hi hd (Nat.zero_le _) (.inr rfl)
    rwa [appended_nil] at this
  · rw [hw] at hu; rw [hw1] at he
    obtain ⟨hl, rfl⟩ := wrBlock_ok hu
    obtain ⟨_, rfl⟩ := wrBlock_error he
    exact .write i _ _ hi hd hl (.inr rfl)
  · rw [hw] at hu; rw [hw1] at hz
    obtain ⟨hl, rfl⟩ := wrBlock_ok hu
    obtain ⟨hl2, rfl⟩ := wrBlock_ok hz
    have hf : s.cur.toNat + (o s.x.x0).length ≤ s.lim.toNat := by have := hol s.x.x0; unfold left at hl; omega
    rw [appended_appended hf]
    refine .write i _ _ hi hd ?_ (.inl rfl)
    rw [left_appended hf] at hl2
    rw [List.length_append]; omega

theorem rdBE_consumes (n) : ∀ s, n / 8 ≤ left s → ∃ v, rdBE n s = .ok (v, advance (n/8) s) := fun _ h =>
    ⟨_, rdBE_of_left h⟩

theorem rdI_consumes (n) : ∀ s, n / 8 ≤ left s → ∃ v, rdI n s = .ok (v, advance (n/8) s) := fun _ h =>
    ⟨_, rdI_of_left h⟩

theorem rdLE64_consumes : ∀ s, 8 ≤ left s → ∃ v, rdLE64 s = .ok (v, advance 8 s) := fun _ h => ⟨_, rdLE64_of_left h⟩

theorem rdClockIdentity_consumes : ∀ s, 8 ≤ left s → ∃ v, rdClockIdentity s = .ok (v, advance 8 s) := fun _ h =>
    ⟨_, rdClockIdentity_of_left h⟩

theorem codec_effect (i : Instr) (hi : i ∈ readCommands ∨ i ∈ writeCommands) {s t : State} (h : exec i s = .next t) :
    CodecEffect s i t := by
  simp only [readCommands, writeCommands, List.mem_cons, List.not_mem_nil, or_false] at hi
  rcases hi with (rfl|rfl|rfl|rfl|rfl|rfl|rfl|rfl|rfl|rfl|rfl|rfl|rfl|rfl)|(rfl|rfl|rfl|rfl|rfl|rfl|rfl|rfl|rfl|rfl|rfl|rfl|rfl|rfl)
  · exact codecEffect_read (rdBE_consumes 8) (fun _ h => rdBE_of_short h) _ (by decide) (by decide) h
  · exact codecEffect_read (rdBE_consumes 16) (fun _ h => rdBE_of_short h) _ (by decide) (by decide) h
  · exact codecEffect_read (rdBE_consumes 32) (fun _ h => rdBE_of_short h) _ (by decide) (by decide) h
  · exact codecEffect_read (rdBE_consumes 48) (fun _ h => rdBE_of_short h) _ (by decide) (by decide) h
  · exact codecEffect_read (rdBE_consumes 64) (fun _ h => rdBE_of_short h) _ (by decide) (by decide) h
  · exact codecEffect_read (rdI_consumes 8) (fun _ h => rdI_of_short h) _ (by decide) (by decide) h
  · exact codecEffect_read (rdI_consumes 16) (fun _ h => rdI_of_short h) _ (by decide) (by decide) h
  · exact codecEffect_read (rdI_consumes 32) (fun _ h => rdI_of_short h) _ (by decide) (by decide) h
  · exact codecEffect_read (rdI_consumes 48) (fun _ h => rdI_of_short h) _ (by decide) (by decide) h
  · exact codecEffect_read (rdI_consumes 64) (fun _ h => rdI_of_short h) _ (by decide) (by decide) h
  · exact codecEffect_read rdLE64_consumes (fun _ h => rdLE64_of_short h) _ (by decide) (by decide) h
  · exact codecEffect_readPair (by norm_num) (rdBE_consumes 48) (fun _ h => rdBE_of_short h) (rdBE_consumes 32)
      (fun _ h => rdBE_of_short h) _ (by decide) (by decide) h
  · exact codecEffect_read rdClockIdentity_consumes (fun _ h => rdClockIdentity_of_short h) _ (by decide) (by decide) h
  · exact codecEffect_readPair (by norm_num) rdClockIdentity_consumes (fun _ h => rdClockIdentity_of_short h)
      (rdBE_consumes 16) (fun _ h => rdBE_of_short h) _ (by decide) (by decide) h
  · exact codecEffect_write (o := bytesBE 1) (fun _ _ => rfl) _ (by decide) (.inr rfl) h
  · exact codecEffect_write (o := bytesBE 2) (fun _ _ => rfl) _ (by decide) (.inr rfl) h
  · exact codecEffect_write (o := bytesBE 4) (fun _ _ => rfl) _ (by decide) (.inr rfl) h
  · exact codecEffect_write (o := bytesBE 6) (fun _ _ => rfl) _ (by decide) (.inl (by decide)) h
  · exact codecEffect_write (o := bytesBE 8) (fun _ _ => rfl) _ (by decide) (.inr rfl) h
  · exact codecEffect_write (o := bytesBE 1) (fun _ _ => rfl) _ (by decide) (.inr rfl) h
  · exact codecEffect_write (o := bytesBE 2) (fun _ _ => rfl) _ (by decide) (.inr rfl) h
  · exact codecEffect_write (o := bytesBE 4) (fun _ _ => rfl) _ (by decide) (.inr rfl) h
  · exact codecEffect_write (o := bytesBE 6) (fun _ _ => rfl) _ (by decide) (.inl (by decide)) h
  · exact codecEffect_write (o := bytesBE 8) (fun _ _ => rfl) _ (by decide) (.inr rfl) h
  · exact codecEffect_write (o := bytesLE 8) (fun _ _ => rfl) _ (by decide) (.inr rfl) h
  · exact codecEffect_writePair (o := bytesBE 6) (q := bytesBE 4) (a := 6) (by norm_num) (by simp) (fun _ _ => rfl)
      (fun _ _ => rfl) _ (by decide) (.inl (by decide)) h
  · exact codecEffect_write (o := bytesBE 8) (fun _ _ => rfl) _ (by decide) (.inr rfl) h
  · exact codecEffect_writePair (o := bytesBE 8) (q := bytesBE 2) (a := 8) (by norm_num) (by simp) (fun _ _ => rfl)
      (fun _ _ => rfl) _ (by decide) (.inr rfl) h

/-- What each command can leave. -/
inductive Effect (s : State) : Instr → State → Prop
  | codec (i t) (h : CodecEffect s i t) : Effect s i t
  | openRd (h : s.x.x0.toNat + s.x.x1.toNat ≤ Config.impl.rxSize) :
      Effect s .openRd ((openWindow .parse s.x.x0.toNat (s.x.x0.toNat + s.x.x1.toNat) s).withStatus .ok)
  | openWr (h : s.x.x0.toNat + s.x.x1.toNat ≤ Config.impl.txSize) :
      Effect s .openWr ((openWindow .build s.x.x0.toNat (s.x.x0.toNat + s.x.x1.toNat) s).withStatus .ok)
  | close : Effect s .close ((s.withDir .idle).withStatus .ok)
  | paramsTaken (p) : Effect s .updateParams (((s.withParams p).writeX 0 1).withStatus .ok)
  | paramsRejected : Effect s .updateParams ((s.writeX 0 0).withStatus .ok)
  | setAllPorts : Effect s .setAllPorts ((s.withTarget allPorts).withStatus .ok)
  | isAllPorts (v) : Effect s .isAllPorts ((s.writeX 0 v).withStatus .ok)
  | actionTaken (v act id) (hp : s.pv = true) (h : actionAccepted Config.impl s.par act id = true) :
      Effect s (.setAction v act id)
        { s with x := { s.x with x0 := 1 }, st := .ok, av := true, draws := s.draws + 1,
                 act := acceptedAction v act id s }
  | actionRejected (v act id) : Effect s (.setAction v act id) ((s.writeX 0 0).withStatus .ok)
  | build (i e v m) (hi : (∃ q, i = .build q) ∨ ∃ q, i = .buildCap q)
      (he : e ∈ [Code.ok, .tooSmall, .unsupport, .val, .sizeMiss, .mem])
      (hm : s.tx.wf = true ∧ s.tx.within Config.impl.txSize = true →
        m.wf = true ∧ m.within Config.impl.txSize = true) :
      Effect s i ((closeTakenWindow ((s.withTx m).writeX 0 v)).withDraw.withStatus e)
  | parse :
      Effect s .parse
        ((closeTakenWindow ((s.withResults (parseResults (parseMessage Config.impl s.x.x0.toNat s) s)).withDisp
          (displayAfter (parseMessage Config.impl s.x.x0.toNat s).text s))).withDraw.withStatus
          (parseMessage Config.impl s.x.x0.toNat s).code)

theorem effect_build (i) (hi : (∃ q, i = .build q) ∨ ∃ q, i = .buildCap q) (cap seq) (hcap : cap ≤ Config.impl.txSize)
    {s t : State} (h : buildInto Config.impl cap seq s = .next t) : Effect s i t := by
  have htx : Config.impl.txSize < 65536 := by unfold Impl.txSize; omega
  rcases buildInto_next (by omega) h with ⟨e, rfl, hc⟩ | ⟨h1, data, hb, hl, rfl⟩
  · refine .build i e _ _ hi ?_ ?_
    · rcases hc with ⟨_, rfl⟩ | ⟨_, _, rfl⟩ | ⟨_, _, p, _, rfl⟩ | ⟨_, _, _, _, _, rfl⟩
      · decide
      · decide
      · cases p <;> decide
      · decide
    · intro _; exact ⟨Memory.wf_ofOctets _, Memory.within_ofOctets 0 _ (by simp)⟩
  · refine .build i .ok _ _ hi (by decide) ?_
    intro ⟨ha, hb⟩
    have hml := offMsgLen_fits Config.impl
    have h54 := messageHead_length Config.impl.header s.par s.act seq
    refine ⟨Memory.wf_writeBytes (Memory.wf_writeBytes (Memory.wf_writeBytes ha _ _) _ _) _ _,
        Memory.within_writeBytes (Memory.within_writeBytes (Memory.within_writeBytes hb _ ?_) _ ?_) _ ?_⟩
    · rw [List.length_append (as := messageHead _ _ _ _), h54]; omega
    · rw [bytesBE_length]; omega
    · rw [bytesBE_length]; omega

theorem exec_effect (i : Instr) {s t : State} (h : exec i s = .next t) : Effect s i t := by
  cases i
  case openRd =>
    rw [exec_openRd] at h; unfold openWith at h; split at h
    · cases h; exact .openRd (by assumption)
    · cases h
  case openWr =>
    rw [exec_openWr] at h; unfold openWith at h; split at h
    · cases h; exact .openWr (by assumption)
    · cases h
  case close => rw [exec_close] at h; cases h; exact .close
  case updateParams =>
    rw [exec_updateParams] at h; split at h
    · cases h; exact .paramsTaken _
    · cases h; exact .paramsRejected
  case setAllPorts =>
    rw [exec_setAllPorts] at h
    obtain ⟨_, h⟩ := withParameters_next h
    cases h; exact .setAllPorts
  case isAllPorts =>
    rw [exec_isAllPorts] at h
    obtain ⟨_, h⟩ := withParameters_next h
    cases h; exact .isAllPorts _
  case setAction v act id =>
    rw [exec_setAction] at h
    obtain ⟨hp, ⟨ha, rfl⟩ | ⟨_, rfl⟩⟩ := setActionWith_next h
    · exact .actionTaken v act id hp ha
    · exact .actionRejected v act id
  case build q =>
    rw [exec_build] at h
    exact effect_build _ (.inl ⟨_, rfl⟩) _ _ le_rfl (whenBuildable_next h).2.2
  case buildCap q =>
    rw [exec_buildCap] at h
    have h := (whenBuildable_next h).2.2
    split at h
    · exact effect_build _ (.inr ⟨_, rfl⟩) _ _ (by assumption) h
    · cases h
  case parse =>
    rw [exec_parse] at h
    obtain ⟨_, _, rfl⟩ := parseWith_next h
    exact .parse
  all_goals exact .codec _ _ (codec_effect _ (by decide) h)
end Sys2Proof.Machine
end

