-- ==== Sys2Proof/Laws/PerInstr.lean ====
section
/-! SUPPORT. Statements about every instruction, one lemma a constructor. -/

namespace Sys2Proof.Laws.EncodesWellFormed

/-- The word of an instruction has an assigned opcode and zeros in its must-be-zero bits (30_encoding.md R101, R103,
R104). The check is WellFormed.lean's, which shares no text with the encoder. -/
def Statement (i : Instr) : Prop := wordWellFormed (encode i) = true

theorem openRd : Statement .openRd := by unfold Statement; decide

theorem openWr : Statement .openWr := by unfold Statement; decide

theorem close : Statement .close := by unfold Statement; decide

theorem rdU8 : Statement .rdU8 := by unfold Statement; decide

theorem rdU16 : Statement .rdU16 := by unfold Statement; decide

theorem rdU32 : Statement .rdU32 := by unfold Statement; decide

theorem rdU48 : Statement .rdU48 := by unfold Statement; decide

theorem rdU64 : Statement .rdU64 := by unfold Statement; decide

theorem rdI8 : Statement .rdI8 := by unfold Statement; decide

theorem rdI16 : Statement .rdI16 := by unfold Statement; decide

theorem rdI32 : Statement .rdI32 := by unfold Statement; decide

theorem rdI48 : Statement .rdI48 := by unfold Statement; decide

theorem rdI64 : Statement .rdI64 := by unfold Statement; decide

theorem rdU64le : Statement .rdU64le := by unfold Statement; decide

theorem wrU8 : Statement .wrU8 := by unfold Statement; decide

theorem wrU16 : Statement .wrU16 := by unfold Statement; decide

theorem wrU32 : Statement .wrU32 := by unfold Statement; decide

theorem wrU48 : Statement .wrU48 := by unfold Statement; decide

theorem wrU64 : Statement .wrU64 := by unfold Statement; decide

theorem wrI8 : Statement .wrI8 := by unfold Statement; decide

theorem wrI16 : Statement .wrI16 := by unfold Statement; decide

theorem wrI32 : Statement .wrI32 := by unfold Statement; decide

theorem wrI48 : Statement .wrI48 := by unfold Statement; decide

theorem wrI64 : Statement .wrI64 := by unfold Statement; decide

theorem wrU64le : Statement .wrU64le := by unfold Statement; decide

theorem rdTimestamp : Statement .rdTimestamp := by unfold Statement; decide

theorem rdClockid : Statement .rdClockid := by unfold Statement; decide

theorem rdPortid : Statement .rdPortid := by unfold Statement; decide

theorem wrTimestamp : Statement .wrTimestamp := by unfold Statement; decide

theorem wrClockid : Statement .wrClockid := by unfold Statement; decide

theorem wrPortid : Statement .wrPortid := by unfold Statement; decide

theorem updateParams : Statement .updateParams := by unfold Statement; decide

theorem setAllPorts : Statement .setAllPorts := by unfold Statement; decide

theorem isAllPorts : Statement .isAllPorts := by unfold Statement; decide

theorem parse : Statement .parse := by unfold Statement; decide

/-- A word's opcode decides its format; the format's mask covers bits `a` to `a + n - 1`. -/
theorem of_fields {w : CommandWord} {f : Format} {a n : Nat} (hf : formatOf (w.toNat / 2 ^ 24) = some f)
    (hm : ∀ j < 32, f.mustBeZero.getLsbD j = (decide (a ≤ j) && decide (j < a + n)))
    (hz : ∀ j, a ≤ j → j < a + n → w.getLsbD j = false) : wordWellFormed w = true := by
  unfold wordWellFormed
  rw [hf]
  refine beq_iff_eq.mpr (BitVec.eq_of_getLsbD_eq fun j hj => ?_)
  rw [BitVec.getLsbD_and, hm j hj]
  show _ = (0#32).getLsbD j
  rw [BitVec.getLsbD_zero]
  by_cases h1 : a ≤ j
  · by_cases h2 : j < a + n
    · rw [hz j h1 h2]; rfl
    · simp [h2]
  · simp [h1]

/-- The opcode of an encoded word, as WellFormed.lean takes it. -/
theorem opcode_encode (i : Instr) : (encode i).toNat / 2 ^ 24 = (opcodeOf i).toNat := by
  rw [← opcodeField_encode, opcodeField, BitVec.extractLsb'_toNat, Nat.shiftRight_eq_div_pow]
  have := (encode i).isLt
  omega

theorem setAction (v : Bool) (act : BitVec 4) (id : BitVec 16) : Statement (.setAction v act id) := by
  refine of_fields (f := .s) (a := 21) (n := 3) (by rw [opcode_encode]; rfl) (by decide) fun j h1 h2 => ?_
  rw [getLsbD_encode _ (by omega), getLsbD_immediate_setAction, if_neg (by omega), if_neg (by omega)]
  simp [show j ≠ 20 by omega]

theorem build (seq : BitVec 16) : Statement (.build seq) := by
  refine of_fields (f := .q) (a := 16) (n := 8) (by rw [opcode_encode]; rfl) (by decide) fun j h1 h2 => ?_
  rw [getLsbD_encode _ (by omega), getLsbD_immediate_build, BitVec.getLsbD_of_ge _ _ h1]

theorem buildCap (seq : BitVec 16) : Statement (.buildCap seq) := by
  refine of_fields (f := .q) (a := 16) (n := 8) (by rw [opcode_encode]; rfl) (by decide) fun j h1 h2 => ?_
  rw [getLsbD_encode _ (by omega), show immediateOf (.buildCap seq) = immediateOf (.build seq) from rfl,
    getLsbD_immediate_build, BitVec.getLsbD_of_ge _ _ h1]

end Sys2Proof.Laws.EncodesWellFormed
end

