-- ==== Sys2Proof/Tests/Slice0.lean ====
section
/-! SUPPORT. Tests: the checks of WellFormed.lean, the decoding of words written out from 30_encoding.md R101 to R103, the
vectors of 95_test_vectors.md on single commands, and a witness for every statement that has hypotheses. Each expected
value is the spec's; its vector is named. -/

namespace Sys2Proof.Tests

-- one declaration after the other: elaborated at once, this many small theorems ask for a thread each
set_option Elab.async false

open Sys2Proof.Machine

/-! ### WellFormed smoke: an ill-formed word for each check (R104, V-K10) -/

theorem test_unassigned_opcode_is_ill_formed : wordWellFormed 0x04000000 = false := by decide

theorem test_unassigned_opcode_1B_is_ill_formed : wordWellFormed 0x1B000000 = false := by decide

theorem test_format_n_immediate_is_ill_formed : wordWellFormed 0x01000001 = false := by decide

theorem test_format_q_high_bits_are_ill_formed : wordWellFormed 0x48010000 = false := by decide

theorem test_format_s_high_bits_are_ill_formed : wordWellFormed 0x43200000 = false := by decide

theorem test_ill_formed_words_do_not_decode :
    decode 0x04000000 = .error .unassignedOpcode ∧ decode 0x1B000000 = .error .unassignedOpcode ∧
    decode 0x01000001 = .error .nonzeroReserved ∧ decode 0x48010000 = .error .nonzeroReserved ∧
    decode 0x43200000 = .error .nonzeroReserved := by decide

/-! ### Decoding: the opcode of R103, then the immediate of R101, bit by bit -/

theorem test_decode_cursor_commands :
    decode 0b00000001_00000000_00000000_00000000 = .ok .openRd ∧
    decode 0b00000010_00000000_00000000_00000000 = .ok .openWr ∧
    decode 0b00000011_00000000_00000000_00000000 = .ok .close := by decide

theorem test_decode_unsigned_reads :
    decode 0b00010000_00000000_00000000_00000000 = .ok .rdU8 ∧
    decode 0b00010001_00000000_00000000_00000000 = .ok .rdU16 ∧
    decode 0b00010010_00000000_00000000_00000000 = .ok .rdU32 ∧
    decode 0b00010011_00000000_00000000_00000000 = .ok .rdU48 ∧
    decode 0b00010100_00000000_00000000_00000000 = .ok .rdU64 ∧
    decode 0b00011010_00000000_00000000_00000000 = .ok .rdU64le := by decide

theorem test_decode_signed_reads :
    decode 0b00010101_00000000_00000000_00000000 = .ok .rdI8 ∧
    decode 0b00010110_00000000_00000000_00000000 = .ok .rdI16 ∧
    decode 0b00010111_00000000_00000000_00000000 = .ok .rdI32 ∧
    decode 0b00011000_00000000_00000000_00000000 = .ok .rdI48 ∧
    decode 0b00011001_00000000_00000000_00000000 = .ok .rdI64 := by decide

theorem test_decode_unsigned_writes :
    decode 0b00100000_00000000_00000000_00000000 = .ok .wrU8 ∧
    decode 0b00100001_00000000_00000000_00000000 = .ok .wrU16 ∧
    decode 0b00100010_00000000_00000000_00000000 = .ok .wrU32 ∧
    decode 0b00100011_00000000_00000000_00000000 = .ok .wrU48 ∧
    decode 0b00100100_00000000_00000000_00000000 = .ok .wrU64 ∧
    decode 0b00101010_00000000_00000000_00000000 = .ok .wrU64le := by decide

theorem test_decode_signed_writes :
    decode 0b00100101_00000000_00000000_00000000 = .ok .wrI8 ∧
    decode 0b00100110_00000000_00000000_00000000 = .ok .wrI16 ∧
    decode 0b00100111_00000000_00000000_00000000 = .ok .wrI32 ∧
    decode 0b00101000_00000000_00000000_00000000 = .ok .wrI48 ∧
    decode 0b00101001_00000000_00000000_00000000 = .ok .wrI64 := by decide

theorem test_decode_compound_reads :
    decode 0b00110000_00000000_00000000_00000000 = .ok .rdTimestamp ∧
    decode 0b00110001_00000000_00000000_00000000 = .ok .rdClockid ∧
    decode 0b00110010_00000000_00000000_00000000 = .ok .rdPortid := by decide

theorem test_decode_compound_writes :
    decode 0b00111000_00000000_00000000_00000000 = .ok .wrTimestamp ∧
    decode 0b00111001_00000000_00000000_00000000 = .ok .wrClockid ∧
    decode 0b00111010_00000000_00000000_00000000 = .ok .wrPortid := by decide

theorem test_decode_system_commands :
    decode 0b01000000_00000000_00000000_00000000 = .ok .updateParams ∧
    decode 0b01000001_00000000_00000000_00000000 = .ok .setAllPorts ∧
    decode 0b01000010_00000000_00000000_00000000 = .ok .isAllPorts := by decide

theorem test_decode_parse :
    decode 0b01001100_00000000_00000000_00000000 = .ok .parse := by decide

/-- `V = 1`, `act = SET`, `id = 0x2005`; then the least and the greatest value of every field. -/
theorem test_decode_set_action :
    decode 0b01000011_000_1_0001_0010000000000101 = .ok (.setAction true 1 0x2005) ∧
    decode 0b01000011_000_0_0000_0000000000000000 = .ok (.setAction false 0 0) ∧
    decode 0b01000011_000_1_1111_1111111111111111 = .ok (.setAction true 15 0xFFFF) := by decide

theorem test_decode_build :
    decode 0b01001000_00000000_0000000000000001 = .ok (.build 1) ∧
    decode 0b01001001_00000000_1000000000000010 = .ok (.buildCap 0x8002) := by decide

theorem test_encode_gives_the_word :
    encode (.setAction true 1 0x2005) = 0x43112005 ∧ encode (.build 1) = 0x48000001 ∧ encode .rdI48 = 0x18000000 := by
  decide

/-! ### Running one codec command -/

/-- The next state of an outcome. -/
def nextOf : Result → Option State
  | .next t => some t
  | .fault _ => none
  | .refused _ => none

/-- The refusal of an outcome. -/
def refusalFrom : Result → Option Refusal
  | .next _ => none
  | .fault _ => none
  | .refused r => some r

/-- A parse window at offset 3 over these octets. -/
def readState (octets : List Octet) : State :=
  { State.reset with dir := .parse, cur := 3, lim := 3 + BitVec.ofNat 32 octets.length,
                     rx := Memory.ofOctets 3 octets, x := { State.reset.x with x0 := 7, x1 := 9 } }

/-- A build window at offset 3 of this many octets, with these operands. -/
def writeState (room : Nat) (v w : Word64) : State :=
  { State.reset with dir := .build, cur := 3, lim := 3 + BitVec.ofNat 32 room,
                     x := { State.reset.x with x0 := v, x1 := w } }

/-- `ST`, `x[0]`, `x[1]` and the octets consumed, after a read. -/
def readGives (i : Instr) (octets : List Octet) : Option (Code × Word64 × Word64 × Nat) :=
  (nextOf (exec i (readState octets))).map fun t => (t.st, t.x.x0, t.x.x1, t.cur.toNat - 3)

/-- `ST` and the octets written, after a write. -/
def writeGives (i : Instr) (room : Nat) (v w : Word64) : Option (Code × List Octet) :=
  (nextOf (exec i (writeState room v w))).map fun t => (t.st, t.tx.readBytes 3 (t.cur.toNat - 3))

/-- V-R1, V-R1c. -/
theorem test_rd_u8 :
    readGives .rdU8 [0x80] = some (.ok, 0x80, 9, 1) ∧
    readGives .rdU8 [] = some (.tooSmall, 7, 9, 0) := by decide

/-- V-R2, V-R2b. -/
theorem test_rd_u16 :
    readGives .rdU16 [0x12, 0x34] = some (.ok, 0x1234, 9, 2) ∧
    readGives .rdU16 [0x12] = some (.tooSmall, 7, 9, 0) := by decide

/-- V-R3, V-R3b. -/
theorem test_rd_u32 :
    readGives .rdU32 [0x3B, 0x9A, 0xC9, 0xFF] = some (.ok, 0x3B9AC9FF, 9, 4) ∧
    readGives .rdU32 [0xFF, 0xFF, 0xFF, 0xFF] = some (.ok, 0xFFFFFFFF, 9, 4) := by decide

/-- V-R4b, V-R4c. -/
theorem test_rd_u48 :
    readGives .rdU48 [0x01, 0x02, 0x03, 0x04, 0x05, 0x06] = some (.ok, 0x010203040506, 9, 6) ∧
    readGives .rdU48 [0xFF, 0xFF, 0xFF, 0xFF, 0xFF] = some (.tooSmall, 7, 9, 0) := by decide

/-- V-R5. -/
theorem test_rd_u64 :
    readGives .rdU64 [0x01, 0x02, 0x03, 0x04, 0x05, 0x06, 0x07, 0x08] = some (.ok, 0x0102030405060708, 9, 8) := by decide

/-- V-R6. -/
theorem test_rd_i8 :
    readGives .rdI8 [0x80] = some (.ok, 0xFFFFFFFFFFFFFF80, 9, 1) ∧
    readGives .rdI8 [0x7F] = some (.ok, 0x7F, 9, 1) := by decide

/-- V-R7. -/
theorem test_rd_i16 :
    readGives .rdI16 [0xFF, 0xFE] = some (.ok, 0xFFFFFFFFFFFFFFFE, 9, 2) ∧
    readGives .rdI16 [0x7F, 0xFF] = some (.ok, 0x7FFF, 9, 2) := by decide

/-- V-R8. -/
theorem test_rd_i32 :
    readGives .rdI32 [0x80, 0x00, 0x00, 0x00] = some (.ok, 0xFFFFFFFF80000000, 9, 4) ∧
    readGives .rdI32 [0x7F, 0xFF, 0xFF, 0xFF] = some (.ok, 0x7FFFFFFF, 9, 4) := by decide

/-- V-R9. -/
theorem test_rd_i48 :
    readGives .rdI48 [0x80, 0x00, 0x00, 0x00, 0x00, 0x00] = some (.ok, 0xFFFF800000000000, 9, 6) ∧
    readGives .rdI48 [0x7F, 0xFF, 0xFF, 0xFF, 0xFF, 0xFF] = some (.ok, 0x00007FFFFFFFFFFF, 9, 6) := by decide

/-- V-R10. -/
theorem test_rd_i64 :
    readGives .rdI64 [0xFF, 0xFF, 0xFF, 0xFF, 0xFF, 0xFF, 0x00, 0x00] = some (.ok, 0xFFFFFFFFFFFF0000, 9, 8) := by decide

/-- V-R11, V-R11c. -/
theorem test_rd_u64le :
    readGives .rdU64le [0x08, 0x07, 0x06, 0x05, 0x04, 0x03, 0x02, 0x01] = some (.ok, 0x0102030405060708, 9, 8) ∧
    readGives .rdU64le [0x01, 0x00, 0x00, 0x00, 0x00, 0x00, 0x00] = some (.tooSmall, 7, 9, 0) := by decide

/-- V-C2, V-C6. -/
theorem test_rd_timestamp :
    readGives .rdTimestamp [0xFF, 0xFF, 0xFF, 0xFF, 0xFF, 0xFF, 0x3B, 0x9A, 0xC9, 0xFF] = some (.ok, 0x0000FFFFFFFFFFFF, 0x3B9AC9FF, 10) ∧
    readGives .rdTimestamp [0x00, 0x00, 0x00, 0x00, 0x00, 0x01, 0x00, 0x00] = some (.tooSmall, 7, 9, 6) := by decide

/-- V-C9, V-C10. -/
theorem test_rd_clockid :
    readGives .rdClockid [0xAA, 0xBB, 0xCC, 0xFF, 0xFE, 0xDD, 0xEE, 0xFF] = some (.ok, 0xAABBCCFFFEDDEEFF, 9, 8) ∧
    readGives .rdClockid [0xAA, 0xBB, 0xCC, 0xFF, 0xFE, 0xDD, 0xEE] = some (.tooSmall, 7, 9, 0) := by decide

/-- V-C14, V-C15. -/
theorem test_rd_portid :
    readGives .rdPortid [0x01, 0x02, 0x03, 0x04, 0x05, 0x06, 0x07, 0x08, 0x00, 0x01] = some (.ok, 0x0102030405060708, 1, 10) ∧
    readGives .rdPortid [0x01, 0x02, 0x03, 0x04, 0x05, 0x06, 0x07, 0x08, 0x00] = some (.tooSmall, 7, 9, 8) := by decide

/-- V-W1b, V-W1c. -/
theorem test_wr_u8 :
    writeGives .wrU8 16 0x1234 0 = some (.ok, [0x34]) ∧
    writeGives .wrU8 0 0x7F 0 = some (.tooSmall, []) := by decide

/-- V-W2b. -/
theorem test_wr_u16 :
    writeGives .wrU16 16 0xABCD1234 0 = some (.ok, [0x12, 0x34]) := by decide

/-- V-W3. -/
theorem test_wr_u32 :
    writeGives .wrU32 16 999999999 0 = some (.ok, [0x3B, 0x9A, 0xC9, 0xFF]) := by decide

/-- V-W4, V-W4d. -/
theorem test_wr_u48 :
    writeGives .wrU48 16 0x0000FFFFFFFFFFFF 0 = some (.ok, [0xFF, 0xFF, 0xFF, 0xFF, 0xFF, 0xFF]) ∧
    writeGives .wrU48 5 0x0001000000000000 0 = some (.val, []) := by decide

/-- V-W5. -/
theorem test_wr_u64 :
    writeGives .wrU64 16 0x0102030405060708 0 = some (.ok, [0x01, 0x02, 0x03, 0x04, 0x05, 0x06, 0x07, 0x08]) := by decide

/-- V-W6. -/
theorem test_wr_i8 :
    writeGives .wrI8 16 0xFFFFFFFFFFFFFFFF 0 = some (.ok, [0xFF]) := by decide

/-- V-W7. -/
theorem test_wr_i16 :
    writeGives .wrI16 16 0xFFFFFFFFFFFFFFFE 0 = some (.ok, [0xFF, 0xFE]) := by decide

/-- V-W8. -/
theorem test_wr_i32 :
    writeGives .wrI32 16 0xFFFFFFFF80000000 0 = some (.ok, [0x80, 0x00, 0x00, 0x00]) := by decide

/-- V-W9, V-W9d. -/
theorem test_wr_i48 :
    writeGives .wrI48 16 0xFFFF800000000000 0 = some (.ok, [0x80, 0x00, 0x00, 0x00, 0x00, 0x00]) ∧
    writeGives .wrI48 16 0x0000FFFFFFFFFFFF 0 = some (.val, []) := by decide

/-- V-W10. -/
theorem test_wr_i64 :
    writeGives .wrI64 16 0xFFFFFFFFFFFF0000 0 = some (.ok, [0xFF, 0xFF, 0xFF, 0xFF, 0xFF, 0xFF, 0x00, 0x00]) := by decide

/-- V-W11, V-W11b. -/
theorem test_wr_u64le :
    writeGives .wrU64le 16 0x0102030405060708 0 = some (.ok, [0x08, 0x07, 0x06, 0x05, 0x04, 0x03, 0x02, 0x01]) ∧
    writeGives .wrU64le 7 1 0 = some (.tooSmall, []) := by decide

/-- V-C1, V-C4. -/
theorem test_wr_timestamp :
    writeGives .wrTimestamp 10 0x0000FFFFFFFFFFFF 999999999 = some (.ok, [0xFF, 0xFF, 0xFF, 0xFF, 0xFF, 0xFF, 0x3B, 0x9A, 0xC9, 0xFF]) ∧
    writeGives .wrTimestamp 8 1 2 = some (.tooSmall, [0x00, 0x00, 0x00, 0x00, 0x00, 0x01]) := by decide

/-- V-C3 with the window too small as well (R193), V-C5. -/
theorem test_wr_timestamp_range :
    writeGives .wrTimestamp 5 0x0001000000000000 0 = some (.val, []) ∧
    writeGives .wrTimestamp 5 1 0 = some (.tooSmall, []) := by decide

/-- V-C8. -/
theorem test_wr_clockid :
    writeGives .wrClockid 8 0x0102030405060708 0 = some (.ok, [0x01, 0x02, 0x03, 0x04, 0x05, 0x06, 0x07, 0x08]) := by decide

/-- V-C12, V-C13. -/
theorem test_wr_portid :
    writeGives .wrPortid 10 0x0102030405060708 0x12340001 = some (.ok, [0x01, 0x02, 0x03, 0x04, 0x05, 0x06, 0x07, 0x08, 0x00, 0x01]) ∧
    writeGives .wrPortid 9 0x0102030405060708 1 = some (.tooSmall, [0x01, 0x02, 0x03, 0x04, 0x05, 0x06, 0x07, 0x08]) := by decide

/-- V-K2 and the example of R158, with offsets every `RX_SIZE` admits. -/
theorem test_open_rd :
    (openWith 1500 .parse { State.reset with x := { State.reset.x with x0 := 52, x1 := 4 } } |> nextOf).map
      (fun t => (t.dir, t.cur, t.lim, t.st)) = some (.parse, 52, 56, .ok) ∧
    refusalFrom (openWith 1500 .parse { State.reset with x := { State.reset.x with x0 := 1490, x1 := 11 } }) =
      some .windowOutsideBuffer := by decide

/-- V-K4. -/
theorem test_open_wr :
    (openWith 1500 .build { State.reset with x := { State.reset.x with x0 := 1490, x1 := 10 } } |> nextOf).map
      (fun t => (t.dir, t.cur, t.lim, t.st)) = some (.build, 1490, 1500, .ok) := by decide

/-- V-K5: `CUR` and `LIM` stay readable. -/
theorem test_close :
    (nextOf (exec .close (writeState 10 0 0))).map (fun t => (t.dir, t.cur, t.lim, t.st)) =
      some (.idle, 3, 13, .ok) := by decide

/-- V-K6 to V-K8. -/
theorem test_wrong_direction :
    refusalFrom (exec .rdU8 State.reset) = some .wrongDirection ∧
    refusalFrom (exec .wrU8 (readState [])) = some .wrongDirection ∧
    refusalFrom (exec .rdTimestamp (writeState 16 0 0)) = some .wrongDirection := by decide

/-! ### The fixtures of Part 0: registry, processor, parameter sets -/

/-- `REG_T`. -/
def regT (id : BitVec 16) : Option Row :=
  if id = 0x2005 then some ⟨0, true, true, false, .fixed 2, false⟩
  else if id = 0x7F01 then some ⟨0, false, false, true, .fixed 0, false⟩
  else if id = 0x7F02 then some ⟨0, true, false, false, .unsupported, false⟩
  else if id = 0x7F03 then some ⟨0, true, true, false, .byValue, false⟩
  else if id = 0x7F04 then some ⟨0, true, false, false, .byValue, true⟩
  else none

/-- `PROC_T.parse`; a list of octets has its big-endian value for a handle. -/
def procParseT (id : BitVec 16) (_ : BitVec 4) (octets : List Octet) : Except ProcError Val :=
  if id = 0x2005 then
    match octets with
    | o :: _ :: _ => .ok (o.setWidth 64)
    | [_] => .error .tooSmall
    | [] => .error .tooSmall
  else .ok (BitVec.ofNat 64 (beNat octets))

/-- `PROC_T.build`; for 0x7F03 every handle names the list of V-B7. -/
def procBuildT (id : BitVec 16) (_ : BitVec 4) : Option Val → Except ProcError (List Octet)
  | none => .ok []
  | some h => if id = 0x2005 then .ok [h.setWidth 8, 0] else .ok [0x02, 0x61, 0x62]

/-- `RX_SIZE = TX_SIZE = 1500`, the header offsets R8 recommends. -/
def implT : Impl :=
  { rxExtra := 1452, txExtra := 1446, acceptGetAsResponder := true, reg := regT, procParse := procParseT,
    procBuild := procBuildT, header := .recommended }

/-- PA. -/
def parPA : ParamRegs :=
  { ts := 0, domain := 0, hops := 1, unicast := false, linuxptp := false, responder := false,
    selfId := ⟨0x0102030405060708, 1⟩, target := ⟨0xFFFFFFFFFFFFFFFF, 0xFFFF⟩ }

/-- PB. -/
def parPB : ParamRegs :=
  { ts := 0, domain := 0, hops := 1, unicast := false, linuxptp := false, responder := true,
    selfId := ⟨0xAABBCCFFFEDDEEFF, 2⟩, target := ⟨0x0102030405060708, 1⟩ }

/-- Parameters loaded, `x[0]` as given. -/
def loaded (par : ParamRegs) (v : Word64) : State :=
  { State.reset with pv := true, par := par, x := { State.reset.x with x0 := v } }

/-- An action set as well. -/
def withAct (par : ParamRegs) (act : BitVec 4) (id : BitVec 16) (ds : Option Val) (v : Word64) : State :=
  { loaded par v with av := true, act := ⟨act, id, ds.isSome, ds.getD 0⟩ }

/-- A message in `RX`. -/
def received (par : ParamRegs) (message : List Octet) : State :=
  { loaded par (BitVec.ofNat 64 message.length) with rx := Memory.ofOctets 0 message }

/-! ### System commands -/

/-- V-A10, with bits of `x[4]` above the port ignored. -/
theorem test_update_params :
    (nextOf (exec .updateParams { State.reset with x := ⟨255, 255, 0xF7, 1, 0x10002, 3, 4, 5⟩ })).map
      (fun t => (t.x, t.st, t.pv, t.par)) =
    some (⟨1, 255, 0xF7, 1, 0x10002, 3, 4, 5⟩, .ok, true,
      { ts := 0xF, domain := 255, hops := 255, unicast := true, linuxptp := true, responder := true,
        selfId := ⟨1, 2⟩, target := ⟨3, 4⟩ }) := by decide

/-- V-A9, V-A10b. -/
theorem test_update_params_rejected :
    (nextOf (exec .updateParams { State.reset with x := ⟨256, 1, 0, 0, 0, 0, 0, 0⟩ })).map
      (fun t => (t.x.x0, t.st, t.pv)) = some (0, .ok, false) ∧
    (nextOf (exec .updateParams { State.reset with x := ⟨0, 256, 0, 0, 0, 0, 0, 0⟩ })).map
      (fun t => (t.x.x0, t.st, t.pv)) = some (0, .ok, false) := by decide

/-- V-A1, V-A2e. -/
theorem test_set_all_ports :
    (nextOf (exec .setAllPorts (loaded parPB 9))).map (fun t => (t.par.target, t.x.x0, t.st)) =
      some (⟨0xFFFFFFFFFFFFFFFF, 0xFFFF⟩, 9, .ok) ∧
    refusalFrom (exec .setAllPorts State.reset) = some .parametersNotValid := by decide

/-- V-A2, V-A2c, V-A2d. -/
theorem test_is_all_ports :
    (nextOf (exec .isAllPorts (loaded parPA 9))).map (·.x.x0) = some 1 ∧
    (nextOf (exec .isAllPorts (loaded { parPA with target := ⟨0xFFFFFFFFFFFFFFFF, 1⟩ } 9))).map (·.x.x0) = some 0 ∧
    (nextOf (exec .isAllPorts (loaded { parPA with target := ⟨0x0102030405060708, 0xFFFF⟩ } 9))).map (·.x.x0) =
      some 0 := by decide

/-- V-A8e, V-A8f. -/
theorem test_set_action :
    (nextOf (setActionWith implT true 1 0x2005 (loaded parPA 127))).map (fun t => (t.x.x0, t.av, t.act)) =
      some (1, true, ⟨1, 0x2005, true, 127⟩) ∧
    (nextOf (setActionWith implT true 0 0x2005 (loaded parPA 127))).map
      (fun t => (t.x.x0, t.av, t.act.action, t.act.dsValid)) = some (1, true, 0, false) := by decide

/-- `x[0]`, `ST` and `AV` after SET_ACTION with no action set before. -/
def actionGives (act : BitVec 4) (id : BitVec 16) : Option (Word64 × Code × Bool) :=
  (nextOf (setActionWith implT false act id (loaded parPA 9))).map fun t => (t.x.x0, t.st, t.av)

/-- V-A3, V-A5 to V-A8, V-A8d: false, nothing set. -/
theorem test_set_action_rejected :
    actionGives 3 0x2005 = some (0, .ok, false) ∧ actionGives 0 0xFFFF = some (0, .ok, false) ∧
    actionGives 5 0x2005 = some (0, .ok, false) ∧ actionGives 15 0x2005 = some (0, .ok, false) ∧
    actionGives 0 0x7F04 = some (0, .ok, false) ∧ actionGives 0 0x7F02 = some (0, .ok, false) ∧
    actionGives 2 0x7F01 = some (0, .ok, false) :=
  ⟨by decide, by decide, by decide, by decide, by decide, by decide, by decide⟩

/-! ### BUILD -/

/-- `ST` and the message, its length from `x[0]`. -/
def buildGives (seq : BitVec 16) (s : State) : Option (Code × List Octet) :=
  (nextOf (buildWith implT seq s)).map fun t => (t.st, t.tx.readBytes 0 t.x.x0.toNat)

/-- `ST` after BUILD_CAP. -/
def capGives (seq : BitVec 16) (s : State) : Option Code := (nextOf (buildCapWith implT seq s)).map (·.st)

/-- V-S1. -/
def frameS1 : List Octet :=
  [0x0D, 0x02, 0x00, 0x36, 0x00, 0x00, 0x00, 0x00, 0x00, 0x00, 0x00, 0x00, 0x00, 0x00, 0x00, 0x00,
   0x00, 0x00, 0x00, 0x00, 0x01, 0x02, 0x03, 0x04, 0x05, 0x06, 0x07, 0x08, 0x00, 0x01, 0x00, 0x01,
   0x04, 0x7F, 0xFF, 0xFF, 0xFF, 0xFF, 0xFF, 0xFF, 0xFF, 0xFF, 0xFF, 0xFF, 0x01, 0x01, 0x00, 0x00,
   0x00, 0x01, 0x00, 0x02, 0x20, 0x05]

/-- V-B7, with the pad. -/
def frameB7 : List Octet :=
  [0x0D, 0x02, 0x00, 0x3A, 0x00, 0x00, 0x00, 0x00, 0x00, 0x00, 0x00, 0x00, 0x00, 0x00, 0x00, 0x00,
   0x00, 0x00, 0x00, 0x00, 0x01, 0x02, 0x03, 0x04, 0x05, 0x06, 0x07, 0x08, 0x00, 0x01, 0x00, 0x03,
   0x04, 0x7F, 0xFF, 0xFF, 0xFF, 0xFF, 0xFF, 0xFF, 0xFF, 0xFF, 0xFF, 0xFF, 0x01, 0x01, 0x01, 0x00,
   0x00, 0x01, 0x00, 0x06, 0x7F, 0x03, 0x02, 0x61, 0x62, 0x00]

/-- V-B8, every parameter visible. -/
def frameB8 : List Octet :=
  [0x1D, 0x02, 0x00, 0x38, 0x7F, 0x00, 0x04, 0x00, 0x00, 0x00, 0x00, 0x00, 0x00, 0x00, 0x00, 0x00,
   0x00, 0x00, 0x00, 0x00, 0x01, 0x02, 0x03, 0x04, 0x05, 0x06, 0x07, 0x08, 0x00, 0x01, 0x12, 0x34,
   0x04, 0x7F, 0x00, 0x11, 0x22, 0x33, 0x44, 0x55, 0x66, 0x77, 0x02, 0x03, 0xFF, 0xFF, 0x01, 0x00,
   0x00, 0x01, 0x00, 0x04, 0x20, 0x05, 0x7F, 0x00]

/-- V-S2. -/
def frameS2 : List Octet :=
  [0x0D, 0x02, 0x00, 0x38, 0x00, 0x00, 0x00, 0x00, 0x00, 0x00, 0x00, 0x00, 0x00, 0x00, 0x00, 0x00,
   0x00, 0x00, 0x00, 0x00, 0xAA, 0xBB, 0xCC, 0xFF, 0xFE, 0xDD, 0xEE, 0xFF, 0x00, 0x02, 0x00, 0x01,
   0x04, 0x7F, 0x01, 0x02, 0x03, 0x04, 0x05, 0x06, 0x07, 0x08, 0x00, 0x01, 0x01, 0x01, 0x02, 0x00,
   0x00, 0x01, 0x00, 0x04, 0x20, 0x05, 0x80, 0x00]

/-- V-P9. -/
def frameP9 : List Octet :=
  [0x0D, 0x02, 0x00, 0x44, 0x00, 0x00, 0x00, 0x00, 0x00, 0x00, 0x00, 0x00, 0x00, 0x00, 0x00, 0x00,
   0x00, 0x00, 0x00, 0x00, 0xAA, 0xBB, 0xCC, 0xFF, 0xFE, 0xDD, 0xEE, 0xFF, 0x00, 0x02, 0x00, 0x01,
   0x04, 0x7F, 0x01, 0x02, 0x03, 0x04, 0x05, 0x06, 0x07, 0x08, 0x00, 0x01, 0x01, 0x01, 0x02, 0x00,
   0x00, 0x02, 0x00, 0x10, 0x00, 0x02, 0x20, 0x05, 0x00, 0x00, 0x00, 0x00, 0x07, 0x75, 0x6E, 0x6B,
   0x6E, 0x6F, 0x77, 0x6E]

/-- V-S5. -/
def frameS5 : List Octet :=
  [0x0D, 0x02, 0x00, 0x3E, 0x00, 0x00, 0x00, 0x00, 0x00, 0x00, 0x00, 0x00, 0x00, 0x00, 0x00, 0x00,
   0x00, 0x00, 0x00, 0x00, 0xAA, 0xBB, 0xCC, 0xFF, 0xFE, 0xDD, 0xEE, 0xFF, 0x00, 0x02, 0x00, 0x09,
   0x04, 0x7F, 0x01, 0x02, 0x03, 0x04, 0x05, 0x06, 0x07, 0x08, 0x00, 0x01, 0x01, 0x01, 0x02, 0x00,
   0x00, 0x01, 0x00, 0x0A, 0x7F, 0x04, 0x08, 0x07, 0x06, 0x05, 0x04, 0x03, 0x02, 0x01]

/-- V-S1, V-B7, V-B8. -/
theorem test_build :
    buildGives 1 (withAct parPA 0 0x2005 none 9) = some (.ok, frameS1) ∧
    buildGives 3 (withAct parPA 1 0x7F03 (some 5) 9) = some (.ok, frameB7) ∧
    buildGives 0x1234 (withAct
      { ts := 1, domain := 127, hops := 255, unicast := true, linuxptp := false, responder := false,
        selfId := ⟨0x0102030405060708, 1⟩, target := ⟨0x0011223344556677, 0x0203⟩ } 1 0x2005 (some 127) 9) =
      some (.ok, frameB8) := by decide +kernel

/-- V-B15 to V-B17. -/
theorem test_build_turned_away :
    refusalFrom (buildWith implT 1 (loaded parPA 0)) = some .actionNotValid ∧
    refusalFrom (buildWith implT 1 State.reset) = some .parametersNotValid ∧
    (nextOf (buildWith implT 1 (withAct parPA 0 0x7F04 none 0))).map (fun t => (t.st, t.dir)) =
      some (.unsupport, .idle) := by decide +kernel

/-- V-B10 to V-B13, V-B14. -/
theorem test_build_cap :
    capGives 1 (withAct parPA 0 0x2005 none 53) = some .tooSmall ∧
    capGives 1 (withAct parPA 0 0x2005 none 54) = some .ok ∧
    capGives 1 (withAct parPA 0 0x2005 none 0) = some .tooSmall ∧
    refusalFrom (buildCapWith implT 1 (withAct parPA 0 0x2005 none 1501)) = some .lengthBeyondBuffer ∧
    capGives 3 (withAct parPA 1 0x7F03 (some 5) 57) = some .tooSmall := by decide +kernel

/-! ### PARSE -/

/-- The code PARSE returns for a message. -/
def parseGives (par : ParamRegs) (message : List Octet) : Option Code :=
  (nextOf (parseWith implT (received par message))).map (·.res.perr)

/-- V-S2 (headers, ID, value) and V-P9 (diagnostics, display text). -/
theorem test_parse_accepts :
    (nextOf (parseWith implT (received parPA frameS2))).map
      (fun t => (t.st, t.res.perr, t.res.seq, t.res.peer, t.res.unicast, t.res.action)) =
      some (.ok, .ok, 1, ⟨0xAABBCCFFFEDDEEFF, 2⟩, false, 2) ∧
    (nextOf (parseWith implT (received parPA frameS2))).map
      (fun t => (t.res.hasTlv, t.res.tlvType, t.res.tlvIdValid, t.res.tlvId, t.res.dataValid, t.res.data)) =
      some (true, 1, true, 0x2005, true, 0x80) ∧
    (nextOf (parseWith implT (received parPA frameP9))).map
      (fun t => (t.st, t.res.tlvType, t.res.tlvIdValid, t.res.errId, t.res.errMid, t.res.displayLen)) =
      some (.msg, 2, false, 2, 0x2005, 7) ∧
    (nextOf (parseWith implT (received parPA frameP9))).map (fun t => t.disp.readBytes 0 7) =
      some [0x75, 0x6E, 0x6B, 0x6E, 0x6F, 0x77, 0x6E] :=
  ⟨by decide +kernel, by decide +kernel, by decide +kernel, by decide +kernel⟩

/-- Another header layout: the port identity first, the flags after it, the other fields from the end. -/
def layoutT : HeaderLayout :=
  { offTsmt := 33, offVer := 32, offMsgLen := 28, offDomain := 27, offFlags := 10, unicastMask := 0x80, offSrcPort := 0,
    offControl := 13, offLogInt := 12 }

/-- A layout is refused where two fields share an octet, a field leaves the header, or the mask is no single bit. -/
theorem test_impossible_layouts_are_ill_formed :
    layoutT.wf = true ∧ ({ layoutT with offDomain := 29 } : HeaderLayout).wf = false ∧
    ({ layoutT with offTsmt := 34 } : HeaderLayout).wf = false ∧
    ({ layoutT with unicastMask := 0x81 } : HeaderLayout).wf = false := by decide

/-- `implT` with that layout. -/
def implElsewhere : Impl := { implT with header := layoutT, headerOk := by decide }

/-- V-S1, unicast, built with that layout. -/
def builtElsewhere : State :=
  (nextOf (buildWith implElsewhere 1 (withAct { parPA with unicast := true } 0 0x2005 none 9))).getD State.reset

/-- The header offsets are parameters (R8): the fields lie where the layout says, and PARSE reads them
there; at the recommended offsets the same octets claim 0x0304 as `messageLength`. -/
theorem test_header_offsets_are_parameters :
    builtElsewhere.tx.readBytes 0 13 = [1, 2, 3, 4, 5, 6, 7, 8, 0, 1, 0x80, 0, 0x7F] ∧
    builtElsewhere.tx.readBytes 28 6 = [0, 54, 0, 1, 0x02, 0x0D] ∧
    (nextOf (parseWith implElsewhere { loaded parPB 54 with rx := builtElsewhere.tx })).map
      (fun t => (t.st, t.res.unicast, t.res.peer)) =
      some (.ok, true, ⟨0x0102030405060708, 1⟩) ∧
    (nextOf (parseWith implT { loaded parPB 54 with rx := builtElsewhere.tx })).map (·.st) = some .tooSmall :=
  ⟨by decide +kernel, by decide +kernel, by decide +kernel, by decide +kernel⟩

/-- The rejected frames of 2.8, V-S2 with one change each (offset, octet), and the code of R251. -/
theorem test_parse_rejects :
    ∀ p ∈ [((3 : Nat), (0x39 : Octet), Code.tooSmall), (3, 0x37, .header), (1, 0x01, .header), (0, 0x0B, .header),
      (32, 0x00, .header), (49, 0x03, .invalidTlv), (51, 0x03, .size), (51, 0x05, .size), (51, 0x06, .invalidTlv),
      (51, 0x02, .sizeMiss), (51, 0x00, .tooSmall), (52, 0xFF, .invalidId), (46, 0x05, .action), (46, 0x01, .action),
      (46, 0x04, .invalidId), (46, 0xF2, .ok), (1, 0x12, .ok), (0, 0x1D, .ok), (6, 0x04, .ok)],
      parseGives parPA (frameS2.set p.1 p.2.1) = some p.2.2 := by decide +kernel

/-! ### Witnesses: for every statement with hypotheses, a concrete state and operands that meet them all, clause by clause
at boundary values -/

/-- The host is about to take this step. -/
def hosting (h : HostStep) : State := { State.reset with host := [h] }

theorem witness_EncodeInvertsDecode : decode 0x49001234 = .ok (.buildCap 0x1234) := by decide

theorem witness_ReservedWordsAreRefused :
    (hosting (.command 0x01000001)).host = [.command 0x01000001] ∧ wordWellFormed 0x01000001 = false ∧
    (hosting (.command 0x43FF0000)).host = [.command 0x43FF0000] ∧ wordWellFormed 0x43FF0000 = false ∧
    (hosting (.command 0x431F0000)).host = [.command 0x431F0000] ∧ wordWellFormed 0x431F0000 = true ∧
    4 < (5 : BitVec 4).toNat ∧ 4 < (15 : BitVec 4).toNat ∧ (loaded parPA 9).pv = true := by decide

theorem witness_StepRunsTheDecodedCommand :
    (hosting (.command 0x40000000)).host = .command 0x40000000 :: [] ∧ decode 0x40000000 = .ok .updateParams := by decide

theorem witness_IdleEngineWaits : State.reset.host = [] := by decide

theorem witness_RegisterPortFollowsTheMap :
    (∃ f, ((0x4E#8).toNat, f) ∈ mappedRegisters) ∧ (0x4F#8).toNat ∉ mappedRegisters.map (·.1) ∧
    (hosting (.readRegister 0x4E)).host = [.readRegister 0x4E] ∧
    (hosting (.readRegister 0x4F)).host = [.readRegister 0x4F] ∧
    (hosting (.writeRegister 7 1)).host = [.writeRegister 7 1] ∧ (7#8).toNat < 8 ∧
    (hosting (.writeRegister 8 1)).host = [.writeRegister 8 1] ∧ 8 ≤ (8#8).toNat := by
  refine ⟨⟨fun s => s.res.displayLen.toNat, ?_⟩, by decide, by decide, by decide, by decide, by decide, by decide,
    by decide⟩
  simp [mappedRegisters]

theorem witness_HostMovesOneOctet :
    (hosting (.writeRx (Config.impl.rxSize - 1) 5)).host = [.writeRx (Config.impl.rxSize - 1) 5] ∧
    Config.impl.rxSize - 1 < Config.impl.rxSize ∧
    (hosting (.writeRx Config.impl.rxSize 5)).host = [.writeRx Config.impl.rxSize 5] ∧
    (hosting (.readOctet .disp 254)).host = [.readOctet .disp 254] ∧ 254 < spaceSize Config.impl .disp ∧
    (hosting (.readOctet .disp 255)).host = [.readOctet .disp 255] ∧ spaceSize Config.impl .disp ≤ 255 := by
  refine ⟨rfl, ?_, rfl, rfl, by decide, rfl, by decide⟩
  simp [Impl.rxSize]

/-- `x[0]` and `x[1]` as given. -/
def operands (a b : Nat) : State :=
  { State.reset with x := { State.reset.x with x0 := BitVec.ofNat 64 a, x1 := BitVec.ofNat 64 b } }

theorem witness_OpenRdOpensAParseWindow :
    (operands Config.impl.rxSize 0).x.x0.toNat + (operands Config.impl.rxSize 0).x.x1.toNat ≤ Config.impl.rxSize ∧
    Config.impl.rxSize < (operands Config.impl.rxSize 1).x.x0.toNat + (operands Config.impl.rxSize 1).x.x1.toNat := by
  have h : Config.impl.rxSize < 2 ^ 64 := by unfold Impl.rxSize; omega
  simp only [operands, BitVec.toNat_ofNat, Nat.mod_eq_of_lt h]
  omega

theorem witness_OpenWrOpensABuildWindow :
    (operands 0 Config.impl.txSize).x.x0.toNat + (operands 0 Config.impl.txSize).x.x1.toNat ≤ Config.impl.txSize ∧
    Config.impl.txSize < (operands 1 Config.impl.txSize).x.x0.toNat + (operands 1 Config.impl.txSize).x.x1.toNat := by
  have h : Config.impl.txSize < 2 ^ 64 := by unfold Impl.txSize; omega
  simp only [operands, BitVec.toNat_ofNat, Nat.mod_eq_of_lt h]
  omega

theorem witness_WrongDirectionIsRefused :
    Instr.rdPortid ∈ readCommands ∧ State.reset.dir ≠ .parse ∧ (writeState 16 0 0).dir ≠ .parse ∧
    Instr.wrPortid ∈ writeCommands ∧ State.reset.dir ≠ .build ∧ (readState []).dir ≠ .build := by decide

/-- `k` octets left of which a read or write needs `k`; then one too few. -/
theorem witness_UnsignedReadsGiveTheBigEndianValue :
    ∀ p ∈ unsignedReads, State.reset.dir ≠ .parse ∧
      (readState (List.replicate p.2.1 0xFF)).dir = .parse ∧
      (readState (List.replicate p.2.1 0xFF)).cur.toNat + p.2.1 ≤ (readState (List.replicate p.2.1 0xFF)).lim.toNat ∧
      (readState (List.replicate (p.2.1 - 1) 0xFF)).dir = .parse ∧
      (readState (List.replicate (p.2.1 - 1) 0xFF)).lim.toNat <
        (readState (List.replicate (p.2.1 - 1) 0xFF)).cur.toNat + p.2.1 := by decide +kernel

theorem witness_SignedReadsSignExtend :
    ∀ p ∈ signedReads, State.reset.dir ≠ .parse ∧
      (readState (List.replicate p.2.1 0xFF)).dir = .parse ∧
      (readState (List.replicate p.2.1 0xFF)).cur.toNat + p.2.1 ≤ (readState (List.replicate p.2.1 0xFF)).lim.toNat ∧
      (readState (List.replicate (p.2.1 - 1) 0xFF)).dir = .parse ∧
      (readState (List.replicate (p.2.1 - 1) 0xFF)).lim.toNat <
        (readState (List.replicate (p.2.1 - 1) 0xFF)).cur.toNat + p.2.1 := by decide +kernel

/-- A parse window of `n` octets. -/
def readRoom (n : Nat) : State := readState (List.replicate n 0x80)

theorem witness_LittleEndianReadGivesTheLittleEndianValue :
    State.reset.dir ≠ .parse ∧ (readRoom 8).dir = .parse ∧ (readRoom 8).cur.toNat + 8 ≤ (readRoom 8).lim.toNat ∧
    (readRoom 7).dir = .parse ∧ (readRoom 7).lim.toNat < (readRoom 7).cur.toNat + 8 := by decide +kernel

theorem witness_UncheckedWritesAppendTheLowBits :
    ∀ p ∈ uncheckedWrites, State.reset.dir ≠ .build ∧ (writeState p.2.1 1 0).dir = .build ∧
      (writeState p.2.1 1 0).cur.toNat + p.2.1 ≤ (writeState p.2.1 1 0).lim.toNat ∧
      (writeState (p.2.1 - 1) 1 0).dir = .build ∧
      (writeState (p.2.1 - 1) 1 0).lim.toNat < (writeState (p.2.1 - 1) 1 0).cur.toNat + p.2.1 := by decide +kernel

theorem witness_WrU48ChecksTheRangeFirst :
    State.reset.dir ≠ .build ∧
    (writeState 5 0x1000000000000 0).dir = .build ∧ 2 ^ 48 ≤ (writeState 5 0x1000000000000 0).x.x0.toNat ∧
    (writeState 6 0xFFFFFFFFFFFF 0).dir = .build ∧ (writeState 6 0xFFFFFFFFFFFF 0).x.x0.toNat < 2 ^ 48 ∧
    (writeState 6 0xFFFFFFFFFFFF 0).cur.toNat + 6 ≤ (writeState 6 0xFFFFFFFFFFFF 0).lim.toNat ∧
    (writeState 5 0xFFFFFFFFFFFF 0).x.x0.toNat < 2 ^ 48 ∧
    (writeState 5 0xFFFFFFFFFFFF 0).lim.toNat < (writeState 5 0xFFFFFFFFFFFF 0).cur.toNat + 6 := by decide +kernel

theorem witness_WrI48ChecksTheRangeFirst :
    State.reset.dir ≠ .build ∧
    ¬ (-2 ^ 47 ≤ (writeState 5 0x800000000000 0).x.x0.toInt ∧ (writeState 5 0x800000000000 0).x.x0.toInt ≤ 2 ^ 47 - 1) ∧
    ¬ (-2 ^ 47 ≤ (writeState 5 0xFFFF7FFFFFFFFFFF 0).x.x0.toInt ∧
      (writeState 5 0xFFFF7FFFFFFFFFFF 0).x.x0.toInt ≤ 2 ^ 47 - 1) ∧
    (-2 ^ 47 ≤ (writeState 6 0xFFFF800000000000 0).x.x0.toInt ∧
      (writeState 6 0xFFFF800000000000 0).x.x0.toInt ≤ 2 ^ 47 - 1) ∧
    (writeState 6 0xFFFF800000000000 0).dir = .build ∧
    (writeState 6 0xFFFF800000000000 0).cur.toNat + 6 ≤ (writeState 6 0xFFFF800000000000 0).lim.toNat ∧
    (-2 ^ 47 ≤ (writeState 5 0x7FFFFFFFFFFF 0).x.x0.toInt ∧ (writeState 5 0x7FFFFFFFFFFF 0).x.x0.toInt ≤ 2 ^ 47 - 1) ∧
    (writeState 5 0x7FFFFFFFFFFF 0).lim.toNat < (writeState 5 0x7FFFFFFFFFFF 0).cur.toNat + 6 := by decide +kernel

theorem witness_LittleEndianWriteAppendsLeastSignificantFirst :
    State.reset.dir ≠ .build ∧ (writeState 8 1 0).dir = .build ∧
    (writeState 8 1 0).cur.toNat + 8 ≤ (writeState 8 1 0).lim.toNat ∧
    (writeState 7 1 0).lim.toNat < (writeState 7 1 0).cur.toNat + 8 := by decide +kernel

/-- `ST` of the next state. -/
def statusOf (r : Result) : Option Code := (nextOf r).map (·.st)

theorem next_of_status {r : Result} {c : Code} (h : statusOf r = some c) : ∃ t, r = .next t ∧ t.st = c := by
  cases r with
  | next t => exact ⟨t, rfl, by simpa [statusOf, nextOf] using h⟩
  | fault f => cases h
  | refused f => cases h

/-- Each primitive fails in an empty window. -/
theorem witness_FailingPrimitivesChangeOnlyTheStatus :
    ∀ i ∈ primitiveCommands, statusOf (exec i (readRoom 0)) = some .tooSmall ∨
      statusOf (exec i (writeState 0 0 0)) = some .tooSmall := by decide +kernel

theorem witness_WriteThenReadGivesTheValueBack :
    ∀ p ∈ writeReadPairs.map (fun p => (p.1, p.2.1)), statusOf (exec p.1 (writeState 8 0x800000000000FFFF 0)) = some .ok ∨
      statusOf (exec p.1 (writeState 6 0xFFFFFFFFFFFF 0)) = some .ok ∨
      statusOf (exec p.1 (writeState 6 0xFFFF800000000000 0)) = some .ok := by decide +kernel

theorem witness_ReadThenWriteReproducesTheOctets :
    ∀ p ∈ readWritePairs, statusOf (exec p.1 (readRoom p.2.2)) = some .ok := by decide +kernel

theorem witness_RdTimestampReadsSecondsThenNanoseconds :
    State.reset.dir ≠ .parse ∧ (readRoom 10).dir = .parse ∧ (readRoom 10).cur.toNat + 10 ≤ (readRoom 10).lim.toNat ∧
    (readRoom 9).cur.toNat + 6 ≤ (readRoom 9).lim.toNat ∧ (readRoom 9).lim.toNat < (readRoom 9).cur.toNat + 10 ∧
    (readRoom 6).cur.toNat + 6 ≤ (readRoom 6).lim.toNat ∧ (readRoom 6).lim.toNat < (readRoom 6).cur.toNat + 10 ∧
    (readRoom 5).lim.toNat < (readRoom 5).cur.toNat + 6 := by decide +kernel

theorem witness_RdPortidReadsClockIdentityThenPort :
    State.reset.dir ≠ .parse ∧ (readRoom 10).dir = .parse ∧ (readRoom 10).cur.toNat + 10 ≤ (readRoom 10).lim.toNat ∧
    (readRoom 9).cur.toNat + 8 ≤ (readRoom 9).lim.toNat ∧ (readRoom 9).lim.toNat < (readRoom 9).cur.toNat + 10 ∧
    (readRoom 8).cur.toNat + 8 ≤ (readRoom 8).lim.toNat ∧ (readRoom 8).lim.toNat < (readRoom 8).cur.toNat + 10 ∧
    (readRoom 7).lim.toNat < (readRoom 7).cur.toNat + 8 := by decide +kernel

/-- A build window of `n` octets, with the greatest seconds field and all ones beside it. -/
def writeRoom (n : Nat) : State := writeState n 0xFFFFFFFFFFFF 0xFFFFFFFFFFFFFFFF

theorem witness_WrTimestampWritesSecondsThenNanoseconds :
    State.reset.dir ≠ .build ∧ (writeState 5 0x1000000000000 0).dir = .build ∧
    2 ^ 48 ≤ (writeState 5 0x1000000000000 0).x.x0.toNat ∧
    (writeRoom 10).dir = .build ∧ (∀ n ∈ [10, 9, 6, 5], (writeRoom n).x.x0.toNat < 2 ^ 48) ∧
    (writeRoom 10).cur.toNat + 10 ≤ (writeRoom 10).lim.toNat ∧
    (writeRoom 9).cur.toNat + 6 ≤ (writeRoom 9).lim.toNat ∧ (writeRoom 9).lim.toNat < (writeRoom 9).cur.toNat + 10 ∧
    (writeRoom 6).cur.toNat + 6 ≤ (writeRoom 6).lim.toNat ∧ (writeRoom 6).lim.toNat < (writeRoom 6).cur.toNat + 10 ∧
    (writeRoom 5).lim.toNat < (writeRoom 5).cur.toNat + 6 := by decide +kernel

theorem witness_WrPortidWritesClockIdentityThenPort :
    State.reset.dir ≠ .build ∧ (writeRoom 10).dir = .build ∧
    (writeRoom 10).cur.toNat + 10 ≤ (writeRoom 10).lim.toNat ∧
    (writeRoom 9).cur.toNat + 8 ≤ (writeRoom 9).lim.toNat ∧ (writeRoom 9).lim.toNat < (writeRoom 9).cur.toNat + 10 ∧
    (writeRoom 8).cur.toNat + 8 ≤ (writeRoom 8).lim.toNat ∧ (writeRoom 8).lim.toNat < (writeRoom 8).cur.toNat + 10 ∧
    (writeRoom 7).lim.toNat < (writeRoom 7).cur.toNat + 8 := by decide +kernel

theorem witness_CompoundRoundTripsKeepEveryField :
    statusOf (exec .wrTimestamp (writeRoom 10)) = some .ok ∧ statusOf (exec .wrPortid (writeRoom 10)) = some .ok ∧
    statusOf (exec .wrClockid (writeRoom 8)) = some .ok ∧ statusOf (exec .rdTimestamp (readRoom 10)) = some .ok ∧
    statusOf (exec .rdPortid (readRoom 10)) = some .ok ∧ statusOf (exec .rdClockid (readRoom 8)) = some .ok := by
  decide +kernel

theorem witness_UpdateParamsReplacesAllOrNone :
    255 < (operands 256 0).x.x0.toNat ∧ 255 < (operands 0 256).x.x1.toNat ∧
    (operands 255 255).x.x0.toNat ≤ 255 ∧ (operands 255 255).x.x1.toNat ≤ 255 := by decide

/-- For SET_ALL_PORTS, IS_ALL_PORTS and SET_ACTION. -/
theorem witness_parameters_valid_or_not : (loaded parPA 9).pv = true ∧ State.reset.pv = false := by decide

/-- Both cases of SET_ACTION occur. -/
theorem witness_SetActionValidatesAgainstTheRegistry :
    (loaded parPA 127).pv = true ∧ ActionValid implT (loaded parPA 127).par 1 0x2005 ∧
    ¬ ActionValid implT (loaded parPA 127).par 3 0x2005 := by
  refine ⟨rfl, ⟨⟨0, true, true, false, .fixed 2, false⟩, rfl, ?_, by decide, .inr (.inl ⟨rfl, rfl⟩)⟩, ?_⟩
  · rintro ⟨row, h, hl, -⟩
    cases h
    cases hl
  · rintro ⟨row, h, -, -, h4⟩
    cases h
    revert h4
    unfold MatrixAllows
    decide

theorem witness_DisallowedActionsLeaveTheStateAlone :
    (loaded parPA 9).pv = true ∧ implT.reg 0xFFFF = none ∧ 4 < (5 : BitVec 4).toNat ∧
    (implT.reg 0x2005).map (allowedAction · 3) = some false := by decide

theorem witness_UnconfiguredCommandsAreRefused :
    State.reset.pv = false ∧ (loaded parPA 0).pv = true ∧ (loaded parPA 0).av = false := by decide

/-- For BUILD and BUILD_CAP: parameters and an action; the capacity at `TX_SIZE` and one above. -/
theorem witness_BuildWritesTheFramedMessage :
    (withAct parPA 0 0x2005 none 1500).pv = true ∧ (withAct parPA 0 0x2005 none 1500).av = true ∧
    State.reset.pv = false ∧ (loaded parPA 9).pv = true ∧ (loaded parPA 9).av = false := by decide

theorem witness_BuildCapHonoursTheCapacity :
    (withAct parPA 0 0x2005 none 1500).pv = true ∧ (withAct parPA 0 0x2005 none 1500).av = true ∧
    (withAct parPA 0 0x2005 none 1500).x.x0.toNat ≤ implT.txSize ∧
    implT.txSize < (withAct parPA 0 0x2005 none 1501).x.x0.toNat ∧
    (withAct parPA 0 0x2005 none 54).x.x0.toNat ≤ Config.impl.txSize ∧
    Config.impl.txSize < (withAct parPA 0 0x2005 none 65536).x.x0.toNat := by
  refine ⟨rfl, rfl, by decide, by decide, ?_, ?_⟩
  · simp [withAct, loaded, Impl.txSize]
  · simp only [withAct, loaded, Impl.txSize]
    have := Config.impl.txExtra.isLt
    show _ < 65536
    omega

/-- A processor that answers an error. -/
def failingT : Impl := { implT with procBuild := fun _ _ _ => .error .val }

/-- Every clause of `BuildEffect` is met: the gate, a capacity of 53, an error of the processor, and with a capacity of 54
or more a message one octet too long (V-B14) and one that fits exactly (V-S1). -/
theorem witness_BuildEffect_clauses :
    GatedId implT parPA 0x7F04 ∧ ¬ GatedId implT parPA 0x2005 ∧ ¬ GatedId implT parPA 0x7F03 ∧
    failingT.procBuild 0x2005 0 none = .error .val ∧ ¬ GatedId failingT parPA 0x2005 ∧
    implT.procBuild 0x7F03 1 (some 5) = .ok [0x02, 0x61, 0x62] ∧
    57 < (framedMessage implT.header parPA 1 0x7F03 3 [0x02, 0x61, 0x62]).length ∧
    implT.procBuild 0x2005 0 none = .ok [] ∧ (framedMessage implT.header parPA 0 0x2005 1 []).length ≤ 54 := by
  refine ⟨⟨⟨0, true, false, false, .byValue, true⟩, rfl, rfl, rfl⟩, ?_, ?_, rfl, ?_, by decide, by decide, rfl,
    by decide⟩
  all_goals
    rintro ⟨row, h, hl, -⟩
    cases h
    cases hl

theorem witness_BuiltMessagesHaveEvenConsistentLengths :
    (∃ t, buildWith implT 3 (withAct parPA 1 0x7F03 (some 5) 9) = .next t ∧ t.st = .ok) ∧
    ∃ t, buildCapWith implT 3 (withAct parPA 1 0x7F03 (some 5) 58) = .next t ∧ t.st = .ok :=
  ⟨next_of_status (by decide +kernel), next_of_status (by decide +kernel)⟩

/-- V-B3: the builder's state. -/
def builderB3 : State := withAct parPA 1 0x2005 (some 127) 9

/-- For BUILD, `TX_SIZE` as room; for BUILD_CAP, as many octets as the message has. -/
theorem witness_BuildWritesTheHeaderInOrder :
    implT.header = .recommended ∧ builderB3.pv = true ∧ builderB3.av = true ∧ ActionOk implT builderB3 ∧
    ¬ GatedId implT builderB3.par builderB3.act.id ∧
    implT.procBuild builderB3.act.id builderB3.act.action (dataOffered builderB3) = .ok [127, 0] ∧
    (orderedMessage builderB3.par builderB3.act.action builderB3.act.id 0x1234 [127, 0]).length ≤ implT.txSize ∧
    (orderedMessage builderB3.par builderB3.act.action builderB3.act.id 0x1234 [127, 0]).length ≤
      (withAct parPA 1 0x2005 (some 127) 56).x.x0.toNat := by
  refine ⟨rfl, rfl, rfl, fun _ => ⟨rfl, by decide, by decide, _, rfl, by decide, by decide⟩, ?_, by decide +kernel,
    by decide, by decide⟩
  rintro ⟨row, h, hl, -⟩
  cases h
  cases hl

theorem witness_ParseReturnsTheFirstFailingTest :
    (loaded parPA 1500).pv = true ∧ (loaded parPA 1500).x.x0.toNat ≤ implT.rxSize ∧
    implT.rxSize < (loaded parPA 1501).x.x0.toNat ∧ (loaded parPA 48).x.x0.toNat ≤ Config.impl.rxSize := by
  refine ⟨rfl, by decide, by decide, ?_⟩
  simp [loaded, Impl.rxSize]

/-- V-Q8's frame: no TLV. -/
def frameQ8 : List Octet := (frameS2.take 48).set 3 0x30

/-- Every row of R66 is reached: OK with a value, OK of a GET, OK without a TLV, MSG, and an error. -/
theorem witness_ParseDefinesTheResultRegisters :
    (∃ t, parseWith implT (received parPA frameS2) = .next t ∧ t.st = .ok) ∧
    (∃ t, parseWith implT (received parPB frameS1) = .next t ∧ t.st = .ok) ∧
    (∃ t, parseWith implT (received parPA frameQ8) = .next t ∧ t.st = .ok) ∧
    (∃ t, parseWith implT (received parPA frameP9) = .next t ∧ t.st = .msg) ∧
    ∃ t, parseWith implT (received parPA frameS1) = .next t ∧ t.st = .action :=
  ⟨next_of_status (by decide +kernel), next_of_status (by decide +kernel), next_of_status (by decide +kernel),
    next_of_status (by decide +kernel), next_of_status (by decide +kernel)⟩

theorem witness_TruncatedMessagesAreTooSmall :
    (∃ t, parseWith implT (received parPA frameS2) = .next t ∧ t.st = .ok) ∧
    ∃ t, parseWith implT (received parPA frameP9) = .next t ∧ t.st = .msg :=
  ⟨next_of_status (by decide +kernel), next_of_status (by decide +kernel)⟩

/-- V-N17's frame. -/
def frameN17 : List Octet := (frameS2.set 52 0xFF).set 53 0xFF

theorem witness_UnknownIdIsInvalid :
    implT.reg 0xFFFF = none ∧ (received parPA frameN17).pv = true ∧
    (received parPA frameN17).x.x0.toNat ≤ implT.rxSize ∧
    ManagementPasses implT.header (received parPA frameN17).rx (received parPA frameN17).x.x0.toNat ∧
    wireValue (received parPA frameN17).rx 52 2 = 0xFFFF := by
  unfold ManagementPasses HeaderPasses wireValue
  decide +kernel

/-- V-N11's and V-N12's frames. -/
theorem witness_OddLengthFieldReturnsSize :
    ∀ f ∈ [frameS2.set 51 0x03, frameS2.set 51 0x05],
      (received parPA f).pv = true ∧ (received parPA f).x.x0.toNat ≤ implT.rxSize ∧
      HeaderPasses implT.header (received parPA f).rx (received parPA f).x.x0.toNat ∧ 52 ≤ (received parPA f).x.x0.toNat ∧
      wireValue (received parPA f).rx 48 2 = 1 ∧ wireValue (received parPA f).rx 50 2 % 2 = 1 := by
  unfold HeaderPasses wireValue
  decide +kernel

/-- V-N19's frame; V-N17's is for the second clause. -/
theorem witness_RejectedRolesReturnAction :
    (received parPA (frameS2.set 46 5)).pv = true ∧
    (received parPA (frameS2.set 46 5)).x.x0.toNat ≤ implT.rxSize ∧
    ManagementPasses implT.header (received parPA (frameS2.set 46 5)).rx (received parPA (frameS2.set 46 5)).x.x0.toNat ∧
    wireValue (received parPA (frameS2.set 46 5)).rx 52 2 = 0x2005 ∧ (implT.reg 0x2005).isSome = true ∧
    ¬ GatedId implT parPA 0x2005 ∧ ¬ RoleAccepts implT parPA 5 := by
  refine ⟨rfl, by decide +kernel, ?_, ?_, rfl, ?_, ?_⟩
  · unfold ManagementPasses HeaderPasses wireValue
    decide +kernel
  · unfold wireValue
    decide +kernel
  · rintro ⟨row, h, hl, -⟩
    cases h
    cases hl
  · unfold RoleAccepts
    decide

theorem witness_ClosedGateTurnsTheIdAway :
    (implT.reg 0x7F04).map (·.linuxptpOnly) = some true ∧ (received parPA frameS5).pv = true ∧
    (received parPA frameS5).par.linuxptp = false ∧ (withAct parPA 0 0x7F04 none 0).av = true ∧
    (withAct parPA 0 0x7F04 none 0).act.id = 0x7F04 ∧
    (withAct parPA 0 0x7F04 none 1500).x.x0.toNat ≤ implT.txSize ∧ (received parPA frameS5).x.x0.toNat ≤ implT.rxSize ∧
    ManagementPasses implT.header (received parPA frameS5).rx (received parPA frameS5).x.x0.toNat ∧
    wireValue (received parPA frameS5).rx 52 2 = (0x7F04 : BitVec 16).toNat := by
  unfold ManagementPasses HeaderPasses wireValue
  decide +kernel

/-- The state after V-B3. -/
def builtB3 : State := (nextOf (buildWith implT 0x1234 builderB3)).getD State.reset

/-- The responder with V-B3's octets in its `RX`. -/
def receiverB3 : State := { loaded parPB builtB3.x.x0 with rx := builtB3.tx }

theorem witness_ParseOfBuildGivesTheValueBack :
    ActionOk implT builderB3 ∧ buildWith implT 0x1234 builderB3 = .next builtB3 ∧ builtB3.st = .ok ∧
    implT.reg builderB3.act.id = some ⟨0, true, true, false, .fixed 2, false⟩ ∧ [127, 0].length = 2 ∧
    implT.procBuild builderB3.act.id builderB3.act.action (dataOffered builderB3) = .ok [127, 0] ∧
    implT.procParse builderB3.act.id builderB3.act.action ([127, 0] ++ padOf [127, 0]) = .ok 127 ∧
    implT.procBuild builderB3.act.id builderB3.act.action (some 127) = .ok [127, 0] ∧
    receiverB3.pv = true ∧ receiverB3.par.linuxptp = builderB3.par.linuxptp ∧ builderB3.act.action ≠ 0 ∧
    RoleAccepts implT receiverB3.par builderB3.act.action ∧ receiverB3.x.x0 = builtB3.x.x0 ∧
    receiverB3.x.x0.toNat ≤ implT.rxSize ∧ ∀ a < receiverB3.x.x0.toNat, receiverB3.rx.read a = builtB3.tx.read a := by
  refine ⟨fun _ => ⟨rfl, by decide, by decide, _, rfl, by decide, by decide⟩, ?_, by decide +kernel, by decide +kernel,
    by decide, by decide +kernel, by decide +kernel, by decide +kernel, by simp only [receiverB3, loaded],
    by simp only [receiverB3, loaded]; rfl, by decide, .inr (.inr ⟨by simp only [receiverB3, loaded]; rfl, .inl rfl⟩),
    by simp only [receiverB3, loaded], by decide +kernel, fun a _ => by simp only [receiverB3]⟩
  obtain ⟨t, ht⟩ := next_of_status (r := buildWith implT 0x1234 builderB3) (c := .ok) (by decide +kernel)
  rw [builtB3, ht.1]
  rfl

/-- An open parse window with a read to come. -/
def soundRead : State := { readRoom 1 with host := [.command 0x10000000] }

theorem witness_EveryStepKeepsTheInvariant : Sound Config.impl soundRead ∧ ∃ t, step soundRead = .next t := by
  refine ⟨⟨⟨fun _ => ⟨by decide +kernel, ?_⟩, fun h => ?_⟩, fun h => ?_, ⟨fun h => ?_, fun h => ?_⟩, ?_⟩, _, rfl⟩
  · show 4 ≤ _
    unfold Impl.rxSize
    omega
  · cases h
  · cases h
  · cases h
  · cases h
  · intro sp
    cases sp
    · refine ⟨by decide +kernel, ?_⟩
      simp [State.space, soundRead, readRoom, readState, Memory.ofOctets, Memory.within, spaceSize, Impl.rxSize,
        Config.unlistedOctet]
    · exact ⟨rfl, rfl⟩
    · exact ⟨rfl, rfl⟩

theorem witness_CommandsKeepTheWindowInsideItsBuffer :
    WindowOk Config.impl soundRead ∧ (∃ t, exec .rdU8 soundRead = .next t ∧ t.dir ≠ .idle) ∧
    ∃ t, exec .openRd (operands 0 48) = .next t := by
  refine ⟨witness_EveryStepKeepsTheInvariant.1.window, ⟨_, rfl, by decide⟩, ?_⟩
  have h : 48 ≤ Config.impl.rxSize := by unfold Impl.rxSize; omega
  exact ⟨_, if_pos (e := .refused .windowOutsideBuffer) h⟩

theorem witness_CommandsKeepTheActionAllowed :
    ActionOk Config.impl soundRead ∧ ∃ t, exec .rdU8 soundRead = .next t :=
  ⟨witness_EveryStepKeepsTheInvariant.1.action, _, rfl⟩

/-- For the statements about every command that completes: a command of each kind does. -/
theorem witness_commands_complete :
    (∃ t, exec .close State.reset = .next t) ∧ (∃ t, exec .rdU8 (readRoom 1) = .next t) ∧
    (∃ t, exec .wrU8 (writeRoom 1) = .next t) ∧ (∃ t, exec .updateParams State.reset = .next t) ∧
    (∃ t, exec .setAllPorts (loaded parPA 9) = .next t) :=
  ⟨⟨_, rfl⟩, ⟨_, rfl⟩, ⟨_, rfl⟩, ⟨_, rfl⟩, ⟨_, rfl⟩⟩

theorem witness_ParametersChangeOnlyByTheirCommands : ∃ t, hostWriteRegister 7 1 State.reset = .next t := ⟨_, rfl⟩

theorem witness_ValidBitsAreNeverCleared :
    (∃ t, step { withAct parPA 0 0x2005 none 9 with host := [.command 0x03000000] } = .next t) ∧
    (withAct parPA 0 0x2005 none 9).pv = true ∧ (withAct parPA 0 0x2005 none 9).av = true := ⟨⟨_, rfl⟩, rfl, rfl⟩

end Sys2Proof.Tests
end

section
/-! The step on a command, and when each command completes: 00_scope.md R4, R5, R7; 60_exceptions.md R295. -/

namespace Sys2Proof.Machine

/-! ### A step that takes a command -/

theorem step_command {s : State} {w : CommandWord} {rest : List HostStep} {i : Instr}
    (hs : s.host = .command w :: rest) (hd : decode w = .ok i) : step s = exec i (s.withHost rest) := by
  simp only [step, hs, hd]

/-- Settles O5: the step on a command, with the host list's update written out. -/
theorem stepRunsTheDecodedCommand : Obligations.StepRunsTheDecodedCommand :=
  fun _ _ _ _ => step_command

/-! ### Completed or refused, and when -/

/-- The command completes where `p` holds and is refused elsewhere. -/
def CompletesWhen (p : Prop) (r : Result) : Prop := (p ∧ ∃ t, r = .next t) ∨ (¬ p ∧ ∃ e, r = .refused e)

theorem CompletesWhen.ne_fault {p : Prop} {r : Result} (h : CompletesWhen p r) (f : Fault) : r ≠ .fault f := by
  rintro rfl
  obtain ⟨_, _, ht⟩ | ⟨_, _, he⟩ := h
  · cases ht
  · cases he

theorem CompletesWhen.refused_iff {p : Prop} {r : Result} (h : CompletesWhen p r) : (∃ e, r = .refused e) ↔ ¬ p := by
  obtain ⟨hp, _, rfl⟩ | ⟨hp, he⟩ := h
  · simp [hp]
  · exact iff_of_true he hp

theorem completesWhen_true {r : Result} (h : ∃ t, r = .next t) : CompletesWhen True r := .inl ⟨trivial, h⟩

/-- A precondition tested before what remains: every frame of a command has this shape. -/
theorem completesWhen_guarded {p q : Prop} [Decidable p] {r : Result} {e : Refusal} (h : CompletesWhen q r) :
    CompletesWhen (p ∧ q) (if p then r else .refused e) := by
  by_cases hp : p
  · rw [if_pos hp]; simpa only [hp, true_and] using h
  · exact .inr ⟨fun h => hp h.1, e, if_neg hp⟩

/-- The last precondition: past it the command always completes. -/
theorem completesWhen_guard {p : Prop} [Decidable p] {r : Result} {e : Refusal} (h : ∃ t, r = .next t) :
    CompletesWhen p (if p then r else .refused e) := by
  have hg : CompletesWhen (p ∧ True) (if p then r else .refused e) := completesWhen_guarded (completesWhen_true h)
  rwa [and_true] at hg

/-! ### The shared frames -/

theorem readInteger_completesWhen (rd : State → Except Code (Word64 × State)) (s : State) :
    CompletesWhen (s.dir = .parse) (readInteger rd s) := by
  refine completesWhen_guard ?_
  cases rd s with
  | error e => exact ⟨_, rfl⟩
  | ok p => exact ⟨_, rfl⟩

theorem writeInteger_completesWhen (inRange : Word64 → Bool) (wr : Word64 → State → Except Code State) (s : State) :
    CompletesWhen (s.dir = .build) (writeInteger inRange wr s) := by
  refine completesWhen_guard ?_
  cases inRange (s.readX 0) with
  | false => exact ⟨_, rfl⟩
  | true =>
    cases wr (s.readX 0) s with
    | error e => exact ⟨_, rfl⟩
    | ok t => exact ⟨_, rfl⟩

theorem readPair_completesWhen (rd₀ rd₁ : State → Except Code (Word64 × State)) (s : State) :
    CompletesWhen (s.dir = .parse) (readPair rd₀ rd₁ s) := by
  refine completesWhen_guard ?_
  split
  · exact ⟨_, rfl⟩
  · split
    · exact ⟨_, rfl⟩
    · exact ⟨_, rfl⟩

theorem writePair_completesWhen (inRange : Word64 → Bool) (wr₀ wr₁ : Word64 → State → Except Code State) (s : State) :
    CompletesWhen (s.dir = .build) (writePair inRange wr₀ wr₁ s) := by
  refine completesWhen_guard ?_
  split
  · split
    · exact ⟨_, rfl⟩
    · split
      · exact ⟨_, rfl⟩
      · exact ⟨_, rfl⟩
  · exact ⟨_, rfl⟩

theorem openWith_completesWhen (size : Nat) (d : Dir) (s : State) :
    CompletesWhen (s.x.x0.toNat + s.x.x1.toNat ≤ size) (openWith size d s) :=
  completesWhen_guard ⟨_, rfl⟩

theorem withParameters_completesWhen (f : State → Result) (s : State) (h : ∃ t, f s = .next t) :
    CompletesWhen (s.pv = true) (withParameters f s) := completesWhen_guard h

theorem setActionWith_completesWhen (c : Impl) (v : Bool) (act : BitVec 4) (id : BitVec 16) (s : State) :
    CompletesWhen (s.pv = true) (setActionWith c v act id s) := by
  refine withParameters_completesWhen _ s ?_
  cases actionAccepted c s.par act id with
  | false => exact ⟨_, rfl⟩
  | true => exact ⟨_, rfl⟩

theorem buildWith_completesWhen (c : Impl) (seq : BitVec 16) (s : State) :
    CompletesWhen (s.pv = true ∧ s.av = true) (buildWith c seq s) :=
  completesWhen_guarded (completesWhen_guard (buildInto_completes c c.txSize seq s))

theorem buildCapWith_completesWhen (c : Impl) (seq : BitVec 16) (s : State) :
    CompletesWhen (s.pv = true ∧ s.av = true ∧ s.x.x0.toNat ≤ c.txSize) (buildCapWith c seq s) :=
  completesWhen_guarded (completesWhen_guarded (completesWhen_guard (buildInto_completes c s.x.x0.toNat seq s)))

theorem parseWith_completesWhen (c : Impl) (s : State) :
    CompletesWhen (s.pv = true ∧ s.x.x0.toNat ≤ c.rxSize) (parseWith c s) :=
  completesWhen_guarded (completesWhen_guard ⟨_, rfl⟩)

theorem execUpdateParams_completes (s : State) : ∃ t, exec .updateParams s = .next t := by
  rw [exec_updateParams]
  split
  · exact ⟨_, rfl⟩
  · exact ⟨_, rfl⟩

/-! ### Every command -/

/-- What each command needs to complete, the negation of its rows in R295. -/
def Precondition (s : State) : Instr → Prop
  | .openRd => s.x.x0.toNat + s.x.x1.toNat ≤ Config.impl.rxSize
  | .openWr => s.x.x0.toNat + s.x.x1.toNat ≤ Config.impl.txSize
  | .close | .updateParams => True
  | .rdU8 | .rdU16 | .rdU32 | .rdU48 | .rdU64 | .rdI8 | .rdI16 | .rdI32 | .rdI48 | .rdI64 | .rdU64le
  | .rdTimestamp | .rdClockid | .rdPortid => s.dir = .parse
  | .wrU8 | .wrU16 | .wrU32 | .wrU48 | .wrU64 | .wrI8 | .wrI16 | .wrI32 | .wrI48 | .wrI64 | .wrU64le
  | .wrTimestamp | .wrClockid | .wrPortid => s.dir = .build
  | .setAllPorts | .isAllPorts | .setAction _ _ _ => s.pv = true
  | .build _ => s.pv = true ∧ s.av = true
  | .buildCap _ => s.pv = true ∧ s.av = true ∧ s.x.x0.toNat ≤ Config.impl.txSize
  | .parse => s.pv = true ∧ s.x.x0.toNat ≤ Config.impl.rxSize

/-- A command completes where its precondition holds and is refused elsewhere (R7, R295). -/
theorem exec_completesWhen (i : Instr) (s : State) : CompletesWhen (Precondition s i) (exec i s) := by
  cases i with
  | openRd | openWr => exact openWith_completesWhen _ _ s
  | close => exact completesWhen_true ⟨_, rfl⟩
  | updateParams => exact completesWhen_true (execUpdateParams_completes s)
  | rdU8 | rdU16 | rdU32 | rdU48 | rdU64 | rdI8 | rdI16 | rdI32 | rdI48 | rdI64 | rdU64le | rdClockid =>
    exact readInteger_completesWhen _ s
  | wrU8 | wrU16 | wrU32 | wrU48 | wrU64 | wrI8 | wrI16 | wrI32 | wrI48 | wrI64 | wrU64le | wrClockid =>
    exact writeInteger_completesWhen _ _ s
  | rdTimestamp | rdPortid => exact readPair_completesWhen _ _ s
  | wrTimestamp | wrPortid => exact writePair_completesWhen _ _ _ s
  | setAllPorts => rw [exec_setAllPorts]; exact withParameters_completesWhen _ s ⟨_, rfl⟩
  | isAllPorts => rw [exec_isAllPorts]; exact withParameters_completesWhen _ s ⟨_, rfl⟩
  | setAction v act id => exact setActionWith_completesWhen _ v act id s
  | build seq => exact buildWith_completesWhen _ seq s
  | buildCap seq => exact buildCapWith_completesWhen _ seq s
  | parse => exact parseWith_completesWhen _ s

/-- Settles O58: whether or not its precondition holds, a command does not fault. -/
theorem noCommandFaults : Obligations.NoCommandFaults :=
  fun i s => (exec_completesWhen i s).ne_fault

end Sys2Proof.Machine
end

section
/-! What the commands leave unchanged: the parameter and action registers, the valid bits, the general registers
(10_state.md R31, R40, R49 to R54). Each frame is said of `Effect`, so no proof unfolds a command. -/

namespace Sys2Proof.Machine

/-! ### What a codec command leaves unchanged -/

/-- A codec command changes `x[0]`, `x[1]`, `ST`, `CUR` and `TX` at most. -/
theorem CodecEffect.frame {s t : State} {i : Instr} (h : CodecEffect s i t) :
    t = { s with x := { s.x with x0 := t.x.x0, x1 := t.x.x1 }, st := t.st, cur := t.cur, tx := t.tx } := by
  cases h with
  | read | read2 | readShort | write | range => rfl

/-! ### The parameter registers -/

theorem Effect.par_eq {s t : State} {i : Instr} (h : Effect s i t) (hu : i ≠ .updateParams) (ha : i ≠ .setAllPorts) :
    t.par = s.par := by
  cases h with
  | codec _ _ h => exact (congrArg State.par h.frame :)
  | paramsTaken | paramsRejected => exact absurd rfl hu
  | setAllPorts => exact absurd rfl ha
  | openRd | openWr | close | isAllPorts | actionTaken | actionRejected | build | parse => rfl

theorem hostWriteRegister_next {number : BitVec 8} {v : Word64} {s t : State}
    (h : hostWriteRegister number v s = .next t) : ∃ hn : number.toNat < 8, t = s.writeX ⟨number.toNat, hn⟩ v := by
  unfold hostWriteRegister at h
  split at h
  · cases h; exact ⟨by assumption, rfl⟩
  · cases h

theorem execSetAllPorts_next {s t : State} (h : exec .setAllPorts s = .next t) :
    t = (s.withTarget allPorts).withStatus .ok := by
  rw [exec_setAllPorts] at h
  exact complete_next (withParameters_next h).2

/-- Settles O53: `Effect.par_eq`, and what SET_ALL_PORTS and the write port leave. -/
theorem parametersChangeOnlyByTheirCommands : Obligations.ParametersChangeOnlyByTheirCommands := by
  refine ⟨fun i s t h => ⟨(exec_effect i h).par_eq, ?_⟩, fun number v s t h => ?_⟩
  · rintro rfl
    rw [execSetAllPorts_next h]; rfl
  · obtain ⟨_, rfl⟩ := hostWriteRegister_next h
    rfl

/-! ### The action registers and the valid bits -/

/-- The action registers stay, or an accepted SET_ACTION wrote them (R50, R213). -/
theorem Effect.action_cases {s t : State} {i : Instr} (h : Effect s i t) :
    (t.act = s.act ∧ t.av = s.av) ∨
    ∃ v act id, i = .setAction v act id ∧ s.pv = true ∧ actionAccepted Config.impl s.par act id = true ∧
      t.act = acceptedAction v act id s ∧ t.av = true ∧ t.x.x0 = 1 := by
  cases h with
  | codec _ _ h => exact .inl ⟨(congrArg State.act h.frame :), (congrArg State.av h.frame :)⟩
  | actionTaken v act id hp ha => exact .inr ⟨v, act, id, rfl, hp, ha, rfl, rfl, rfl⟩
  | openRd | openWr | close | paramsTaken | paramsRejected | setAllPorts | isAllPorts | actionRejected | build | parse =>
    exact .inl ⟨rfl, rfl⟩

/-- `PV` stays, or UPDATE_PARAMS set it (R40, R49). -/
theorem Effect.pv_of_pv {s t : State} {i : Instr} (h : Effect s i t) (hp : s.pv = true) : t.pv = true := by
  cases h with
  | codec _ _ h => exact (congrArg State.pv h.frame :).trans hp
  | paramsTaken => rfl
  | openRd | openWr | close | paramsRejected | setAllPorts | isAllPorts | actionTaken | actionRejected | build | parse =>
    exact hp

theorem Effect.av_of_av {s t : State} {i : Instr} (h : Effect s i t) (ha : s.av = true) : t.av = true := by
  rcases h.action_cases with ⟨_, hav⟩ | ⟨_, _, _, _, _, _, _, hav, _⟩
  · exact hav.trans ha
  · exact hav

/-- Settles O54, from `Effect.action_cases`. -/
theorem actionChangesOnlyByAnAcceptedSetAction : Obligations.ActionChangesOnlyByAnAcceptedSetAction := by
  intro i s t h
  rcases (exec_effect i h).action_cases with hkept | ⟨v, act, id, hi, _, _, _, _, hx⟩
  · exact .inl hkept
  · exact .inr ⟨v, act, id, hi, hx⟩

/-- Settles O55: a command keeps the bits, and what else the host does writes neither. -/
theorem validBitsAreNeverCleared : Obligations.ValidBitsAreNeverCleared := by
  intro s t h
  rcases step_next h with ⟨_, rfl⟩ | ⟨_, rest, i, _, _, hx⟩ | ⟨_, _, _, _, rfl⟩ | ⟨_, _, _, _, _, rfl⟩ |
    ⟨_, _, _, _, _, rfl⟩ | ⟨_, _, _, _, _, rfl⟩
  case inr.inl => exact ⟨(exec_effect i hx).pv_of_pv, (exec_effect i hx).av_of_av⟩
  all_goals exact ⟨id, id⟩

/-! ### The general registers -/

theorem not_keepsX0_of_read {i : Instr} (hi : i ∈ readCommands) :
    ¬ (i ∈ [Instr.openRd, .openWr, .close, .setAllPorts, .parse] ∨ i ∈ writeCommands) :=
  (by decide : ∀ j ∈ readCommands,
    ¬ (j ∈ [Instr.openRd, .openWr, .close, .setAllPorts, .parse] ∨ j ∈ writeCommands)) i hi

theorem CodecEffect.x1_eq {s t : State} {i : Instr} (h : CodecEffect s i t)
    (hi : i ∉ [Instr.rdTimestamp, .rdPortid]) : t.x.x1 = s.x.x1 := by
  cases h with
  | read2 _ _ _ _ _ _ hx => exact absurd hx hi
  | read | readShort | write | range => rfl

theorem CodecEffect.x0_eq {s t : State} {i : Instr} (h : CodecEffect s i t) (hi : i ∉ readCommands) :
    t.x.x0 = s.x.x0 := by
  cases h with
  | read _ _ hr | read2 _ _ _ hr => exact absurd hr hi
  | readShort | write | range => rfl

theorem Effect.x1_eq {s t : State} {i : Instr} (h : Effect s i t) (hi : i ∉ [Instr.rdTimestamp, .rdPortid]) :
    t.x.x1 = s.x.x1 := by
  cases h with
  | codec _ _ h => exact h.x1_eq hi
  | openRd | openWr | close | paramsTaken | paramsRejected | setAllPorts | isAllPorts | actionTaken | actionRejected
  | build | parse => rfl

/-- The commands with no result in `x[0]` keep it (R31). -/
theorem Effect.x0_eq {s t : State} {i : Instr} (h : Effect s i t)
    (hi : i ∈ [Instr.openRd, .openWr, .close, .setAllPorts, .parse] ∨ i ∈ writeCommands) : t.x.x0 = s.x.x0 := by
  cases h with
  | codec _ _ h => exact h.x0_eq fun hr => not_keepsX0_of_read hr hi
  | openRd | openWr | close | setAllPorts | parse => rfl
  | build _ _ _ _ hb => rcases hb with ⟨_, rfl⟩ | ⟨_, rfl⟩ <;> simp [writeCommands] at hi
  | paramsTaken | paramsRejected | isAllPorts | actionTaken | actionRejected => simp [writeCommands] at hi

theorem Effect.x_frame {s t : State} {i : Instr} (h : Effect s i t) : t.x = { s.x with x0 := t.x.x0, x1 := t.x.x1 } := by
  cases h with
  | codec _ _ h => exact (congrArg State.x h.frame :)
  | openRd | openWr | close | paramsTaken | paramsRejected | setAllPorts | isAllPorts | actionTaken | actionRejected
  | build | parse => rfl

/-- Settles O56, from what each effect leaves of the general registers. -/
theorem generalRegistersChangeOnlyAsResults : Obligations.GeneralRegistersChangeOnlyAsResults := by
  intro i s t h
  have he := exec_effect i h
  exact ⟨he.x1_eq, he.x0_eq, he.x_frame⟩

end Sys2Proof.Machine
end

section
/-! How PARSE ends, said once for every later statement about it: `parseMessage_outcome` (42_frame_engine.md R233 to R251;
10_state.md R66). -/

namespace Sys2Proof.Machine

/-! ### The octets of a field as the statements write them -/

theorem beNat_readBytes (m : Memory) (a k : Nat) : beNat (m.readBytes a k) = wireValue m a k := by
  induction k generalizing a with
  | zero => rfl
  | succ k ih =>
    rw [Memory.readBytes, beNat, Memory.readBytes_length, ih, wireValue, wireValue, Finset.sum_range_succ']
    have hshift : ∀ j ∈ Finset.range k, (m.read (a + 1 + j)).toNat * 256 ^ (k - 1 - j) =
        (m.read (a + (j + 1))).toNat * 256 ^ (k + 1 - 1 - (j + 1)) := by
      intro j _
      rw [Nat.add_assoc a 1 j, Nat.add_comm 1 j, Nat.add_sub_cancel, Nat.sub_sub, Nat.add_comm 1 j]
    rw [Finset.sum_congr rfl hshift, Nat.add_comm]
    rfl

theorem wireValue_lt (m : Memory) (a k : Nat) : wireValue m a k < 256 ^ k := by
  simpa only [beNat_readBytes, Memory.readBytes_length] using beNat_lt (m.readBytes a k)

theorem Memory.toNat_be16 (m : Memory) (a : Nat) : (m.be16 a).toNat = wireValue m a 2 := by
  rw [Memory.be16, BitVec.toNat_ofNat, beNat_readBytes]
  exact Nat.mod_eq_of_lt (wireValue_lt m a 2)

theorem Memory.toNat_be64 (m : Memory) (a : Nat) : (m.be64 a).toNat = wireValue m a 8 := by
  rw [Memory.be64, BitVec.toNat_ofNat, beNat_readBytes]
  exact Nat.mod_eq_of_lt (wireValue_lt m a 8)

theorem Memory.readBytes_eq_map (m : Memory) (a k : Nat) :
    m.readBytes a k = (List.range k).map fun j => m.read (a + j) := by
  refine List.ext_getElem (by simp) fun j h _ => ?_
  rw [Memory.readBytes_getElem m a k j h, List.getElem_map, List.getElem_range]

/-! ### Reads at the cursor, in the terms of the memory -/

theorem rdBE_error {n : Nat} {s : State} {e : Code} (h : rdBE n s = .error e) : e = .tooSmall := by
  rcases Nat.lt_or_ge (left s) (n / 8) with hl | hl
  · rw [rdBE_of_short hl] at h; cases h; rfl
  · rw [rdBE_of_left hl] at h; cases h

theorem setWidth_rdBE16 (m : Memory) (a : Nat) :
    (BitVec.ofNat 64 (beNat (m.readBytes a (16 / 8)))).setWidth 16 = m.be16 a :=
  BitVec.setWidth_ofNat_of_le (by norm_num) _

theorem toNat_rdBE8 (m : Memory) (a : Nat) : (BitVec.ofNat 64 (beNat (m.readBytes a (8 / 8)))).toNat = (m.read a).toNat := by
  have := (m.read a).isLt
  simp only [Nat.reduceDiv, Memory.readBytes, beNat, List.length_nil, pow_zero, mul_one, add_zero, BitVec.toNat_ofNat]
  omega

/-! ### How a message can end -/

/-- A code of a PARSE that failed. -/
abbrev Code.IsFailure (e : Code) : Prop := e ≠ .ok ∧ e ≠ .msg

theorem headerError_isFailure {l : HeaderLayout} {m : Memory} {n : Nat} {e : Code} (h : headerError l m n = some e) :
    e.IsFailure := by
  unfold headerError at h
  split_ifs at h <;> cases h <;> decide

theorem tlvHeadError_isFailure {m : Memory} {n : Nat} {e : Code} (h : tlvHeadError m n = some e) : e.IsFailure := by
  unfold tlvHeadError at h
  split_ifs at h <;> cases h <;> decide

/-- The display text: a length octet, then that many octets; none where the cursor is at the end (R240). -/
theorem readDisplayText_cases (s : State) :
    (∃ e, readDisplayText s = .error e ∧ e.IsFailure) ∨
    readDisplayText s = .ok (if left s = 0 then [] else s.rx.readBytes (s.cur + 1).toNat (s.rx.read s.cur.toNat).toNat) := by
  unfold readDisplayText
  by_cases h0 : left s = 0
  · simp only [if_pos h0, or_true]
  · rw [if_neg h0, if_neg h0, rdBE_of_left (show 8 / 8 ≤ left s by omega)]
    simp only [toNat_rdBE8]
    split_ifs
    · exact .inl ⟨_, rfl, by decide⟩
    · exact .inr rfl

/-- The body of an error-status TLV: a failure, or eight octets of it and the display text were read (R240). -/
theorem parseErrorStatus_cases (h : ParsedHeader) {s : State} (hs : s.cur.toNat ≤ s.lim.toNat) :
    (∃ e, parseErrorStatus h s = .failed e ∧ e.IsFailure) ∨
    ∃ text, 8 ≤ left s ∧ readDisplayText (advance 8 s) = .ok text ∧
      parseErrorStatus h s = .errorStatus h (s.rx.be16 s.cur.toNat) (s.rx.be16 (s.cur.toNat + 2)) text := by
  unfold parseErrorStatus
  split
  · next e he => exact .inl ⟨e, rfl, by rw [rdBE_error he]; decide⟩
  next eid s₁ h₁ =>
  obtain ⟨hl₁, rfl, rfl⟩ := rdBE_ok h₁
  have hcur := toNat_advance hl₁ hs
  have hleft := left_advance hl₁ hs
  split_ifs
  swap
  · exact .inl ⟨_, rfl, by decide⟩
  split
  · next e he => exact .inl ⟨e, rfl, by rw [rdBE_error he]; decide⟩
  next emid s₂ h₂ =>
  obtain ⟨hl₂, rfl, rfl⟩ := rdBE_ok h₂
  rw [advance_advance]
  split
  · next e he => exact .inl ⟨e, rfl, by rw [rdBE_error he]; decide⟩
  next s₃ h₃ =>
  obtain ⟨hl₃, -, rfl⟩ := rdBE_ok h₃
  have h8 : 8 ≤ left s := by
    rcases left_of_advance (s := s) (by omega) hl₃ with h | h <;> omega
  rw [advance_advance]
  split
  · next e he =>
    rcases readDisplayText_cases (advance 8 s) with ⟨e', he', hf⟩ | hok
    · cases he'.symm.trans he; exact .inl ⟨_, rfl, hf⟩
    · cases hok.symm.trans he
  · next text ht =>
    refine .inr ⟨text, h8, ht, ?_⟩
    rw [setWidth_rdBE16, setWidth_rdBE16, advance_cur, hcur]
    rfl

/-- The display text of a received error-status message, in the octets of `RX` (R240). -/
def displayText (m : Memory) : List Octet :=
  if (m.be16 offTlvLen).toNat = 8 then [] else m.readBytes 61 (m.read 60).toNat

theorem displayText_length (m : Memory) :
    (displayText m).length = if wireValue m 50 2 = 8 then 0 else (m.read 60).toNat := by
  rw [displayText, Memory.toNat_be16, offTlvLen]
  split
  · rfl
  · exact Memory.readBytes_length _ _ _

/-- How a message can end, with what each end read (R66, R239 to R247). -/
inductive ParseOutcome (c : Impl) (n : Nat) (s : State) : ParseEnd → Prop
  | failed (e : Code) (he : e.IsFailure) : ParseOutcome c n s (.failed e)
  | noTlv (hn : n = 48) : ParseOutcome c n s (.noTlv (readHeader c.header s.rx))
  | errorStatus (hn : n ≠ 48) :
      ParseOutcome c n s
        (.errorStatus (readHeader c.header s.rx) (s.rx.be16 52) (s.rx.be16 54) (displayText s.rx))
  | request (hn : n ≠ 48) (ha : (readHeader c.header s.rx).action = 0) :
      ParseOutcome c n s (.request (readHeader c.header s.rx) (s.rx.be16 52))
  | decoded (hn : n ≠ 48) (ha : (readHeader c.header s.rx).action ≠ 0) (v : Val)
      (hv : c.procParse (s.rx.be16 52) (readHeader c.header s.rx).action
        (s.rx.readBytes 54 ((s.rx.be16 50).toNat - 2)) = .ok v) :
      ParseOutcome c n s (.decoded (readHeader c.header s.rx) (s.rx.be16 52) v)

/-- The window PARSE reads a TLV body through. -/
theorem tlvBody_window (s : State) {len : Nat} (h : len < 2 ^ 16) :
    (openWindow .parse offTlvBody (offTlvBody + len) s).cur.toNat = 52 ∧
    (openWindow .parse offTlvBody (offTlvBody + len) s).lim.toNat = 52 + len := by
  refine ⟨rfl, ?_⟩
  rw [openWindow_lim, BitVec.toNat_ofNat, offTlvBody]
  omega

theorem parseErrorStatus_outcome (c : Impl) {n : Nat} (hn : n ≠ 48) (s : State) :
    ParseOutcome c n s (parseErrorStatus (readHeader c.header s.rx)
      (openWindow .parse offTlvBody (offTlvBody + (s.rx.be16 offTlvLen).toNat) s)) := by
  obtain ⟨hcur, hlim⟩ := tlvBody_window s (s.rx.be16 offTlvLen).isLt
  set body := openWindow .parse offTlvBody (offTlvBody + (s.rx.be16 offTlvLen).toNat) s with hbody
  have hs : body.cur.toNat ≤ body.lim.toNat := by omega
  rcases parseErrorStatus_cases (readHeader c.header s.rx) hs with ⟨e, he, hf⟩ | ⟨text, h8, ht, he⟩
  · rw [he]; exact .failed e hf
  · have hleft : left (advance 8 body) = (s.rx.be16 offTlvLen).toNat - 8 := by
      rw [left_advance h8 hs, left, hcur, hlim, Nat.add_sub_cancel_left]
    have hlen : 8 ≤ (s.rx.be16 offTlvLen).toNat := by unfold left at h8; omega
    have h60 : (advance 8 body).cur.toNat = 60 := by rw [advance_cur, toNat_advance h8 hs, hcur]
    have h61 : ((advance 8 body).cur + 1).toNat = 61 := by rw [BitVec.toNat_add, h60]; rfl
    have htext : text = displayText s.rx := by
      rcases readDisplayText_cases (advance 8 body) with ⟨e, hte, _⟩ | hte
      · cases hte.symm.trans ht
      · cases hte.symm.trans ht
        rw [hleft, h60, h61, displayText]
        exact if_congr (by omega) rfl rfl
    rw [he, htext, hcur]
    exact .errorStatus hn

theorem parseManagement_outcome (c : Impl) {n : Nat} (hn : n ≠ 48) (s : State) :
    ParseOutcome c n s (parseManagement c (readHeader c.header s.rx) (s.rx.be16 offTlvLen).toNat
      (openWindow .parse offTlvBody (offTlvBody + (s.rx.be16 offTlvLen).toNat) s)) := by
  obtain ⟨hcur, -⟩ := tlvBody_window s (s.rx.be16 offTlvLen).isLt
  unfold parseManagement
  split
  · next e he => rw [rdBE_error he]; exact .failed _ (by decide)
  · next mid t hmid =>
    obtain ⟨-, rfl, -⟩ := rdBE_ok hmid
    rw [setWidth_rdBE16, hcur]
    simp only [openWindow_rx, openWindow_par]
    rcases parseData_cases c s.par (readHeader c.header s.rx) (s.rx.be16 52)
      (s.rx.readBytes offData ((s.rx.be16 offTlvLen).toNat - 2)) with ⟨e, he, hf⟩ | ⟨ha, he⟩ | ⟨ha, v, hv, he⟩
    · rw [he]; exact .failed e hf
    · rw [he]; exact .request hn ha
    · rw [he]; exact .decoded hn ha v hv

/-- Everything PARSE's reading of a message can end with. -/
theorem parseMessage_outcome (c : Impl) (n : Nat) (s : State) : ParseOutcome c n s (parseMessage c n s) := by
  unfold parseMessage
  split
  · next e he => exact .failed e (headerError_isFailure he)
  split
  · exact .failed _ (by decide)
  split
  · next h48 => exact .noTlv h48
  next h48 =>
  split
  · next e he => exact .failed e (tlvHeadError_isFailure he)
  split
  · exact parseErrorStatus_outcome c h48 s
  · exact parseManagement_outcome c h48 s

theorem parseMessage_text_length (c : Impl) (n : Nat) (s : State) : (parseMessage c n s).text.length ≤ 255 := by
  have h := parseMessage_outcome c n s
  generalize parseMessage c n s = p at h ⊢
  cases h with
  | failed | noTlv | request | decoded => exact Nat.zero_le _
  | errorStatus =>
    have := (s.rx.read 60).isLt
    rw [ParseEnd.text, displayText_length]
    split_ifs <;> omega

/-! ### What the result registers hold -/

/-- The header part of every row that defines it (R66, R237, R238). -/
theorem headerDefined_readHeader {l : HeaderLayout} {m : Memory} {r : ResultRegs} (hseq : r.seq = (readHeader l m).seq)
    (hpeer : r.peer = (readHeader l m).peer) (hunicast : r.unicast = (readHeader l m).unicast)
    (haction : r.action = (readHeader l m).action) : HeaderDefined l m r := by
  refine ⟨?_, ?_, ?_, ?_, ?_⟩
  · rw [hseq]; exact Memory.toNat_be16 m offSeq
  · rw [hpeer]; exact Memory.toNat_be64 m l.offSrcPort
  · rw [hpeer]; exact Memory.toNat_be16 m (l.offSrcPort + 8)
  · rw [hunicast]; exact bne_iff_ne
  · rw [haction]; exact BitVec.toNat_setWidth 4 (m.read offAction)

/-- The text of an error status stands in `DISP` from offset 0 on (R65). -/
theorem read_displayAfter (text : List Octet) (s : State) {j : Nat} (h : j < text.length) :
    (displayAfter text s).read j = text[j] := by
  have hj : j < (text ++ freeOctets s.draws .disp text.length (255 - text.length)).length := by
    rw [List.length_append]; omega
  have := Memory.read_ofOctets 0 _ j hj
  rw [Nat.zero_add] at this
  rw [displayAfter, this, List.getElem_append_left h]

theorem displayText_getElem (m : Memory) {j : Nat} (h : j < (displayText m).length) :
    (displayText m)[j] = m.read (61 + j) := by
  unfold displayText at h ⊢
  split_ifs at h ⊢
  · cases h
  · exact Memory.readBytes_getElem m 61 _ j h

theorem displayText_length_lt (m : Memory) : (displayText m).length < 2 ^ 8 := by
  have := (m.read 60).isLt
  rw [displayText_length]
  split_ifs <;> omega

/-- The fields of the state after PARSE that its outcome decides. -/
theorem parseWith_results {c : Impl} {s t : State} (h : parseWith c s = .next t) :
    t.st = (parseMessage c s.x.x0.toNat s).code ∧ t.res = parseResults (parseMessage c s.x.x0.toNat s) s ∧
    t.disp = displayAfter (parseMessage c s.x.x0.toNat s).text s := by
  obtain ⟨-, -, rfl⟩ := parseWith_next h
  exact ⟨rfl, rfl, rfl⟩

/-! ### O40, row by row -/

/-- Settles O40: the table of R66, one row for each outcome of `parseMessage`. -/
theorem parseDefinesTheResultRegisters : Obligations.ParseDefinesTheResultRegisters := by
  intro c s t h
  obtain ⟨hst, hres, hdisp⟩ := parseWith_results h
  have hout := parseMessage_outcome c s.x.x0.toNat s
  generalize parseMessage c s.x.x0.toNat s = p at hst hres hdisp hout
  rw [hst, hres, hdisp]
  have hid := Memory.toNat_be16 s.rx 52
  cases hout with
  | failed e he =>
    exact ⟨rfl, fun hok => absurd hok he.1, fun hmsg => absurd hmsg he.2, fun _ _ => ⟨rfl, rfl⟩⟩
  | noTlv hn =>
    exact ⟨rfl, fun _ => ⟨headerDefined_readHeader rfl rfl rfl rfl, fun _ => ⟨rfl, rfl, rfl⟩, fun hne => absurd hn hne⟩,
      nofun, fun hok => absurd rfl hok⟩
  | request hn ha =>
    refine ⟨rfl, fun _ => ⟨headerDefined_readHeader rfl rfl rfl rfl, fun heq => absurd heq hn, fun _ => ?_⟩,
      nofun, fun hok => absurd rfl hok⟩
    exact ⟨rfl, rfl, rfl, hid, ⟨nofun, absurd ha⟩, absurd ha⟩
  | decoded hn ha v hv =>
    refine ⟨rfl, fun _ => ⟨headerDefined_readHeader rfl rfl rfl rfl, fun heq => absurd heq hn, fun _ => ?_⟩,
      nofun, fun hok => absurd rfl hok⟩
    rw [Memory.readBytes_eq_map, Memory.toNat_be16] at hv
    exact ⟨rfl, rfl, rfl, hid, ⟨fun _ => ha, fun _ => rfl⟩, fun _ => hv⟩
  | errorStatus hn =>
    have hlen : (BitVec.ofNat 8 (displayText s.rx).length).toNat = (displayText s.rx).length := by
      rw [BitVec.toNat_ofNat, Nat.mod_eq_of_lt (displayText_length_lt s.rx)]
    refine ⟨rfl, nofun, fun _ => ?_, fun _ hmsg => absurd rfl hmsg⟩
    refine ⟨headerDefined_readHeader rfl rfl rfl rfl, rfl, rfl, rfl, rfl, hid, Memory.toNat_be16 s.rx 54,
      hlen.trans (displayText_length s.rx), fun j hj => ?_⟩
    have hj : j < (displayText s.rx).length := lt_of_lt_of_eq hj hlen
    exact (read_displayAfter _ s hj).trans (displayText_getElem s.rx hj)

end Sys2Proof.Machine
end

section
/-! The invariant of the machine, part by part: what establishes and keeps each of its four parts, then that every command
and every step keeps all of them (10_state.md R38, R66; 20_memory.md R82; 42_frame_engine.md R205). -/

namespace Sys2Proof.Machine

/-! ### The window (R38) -/

theorem windowOk_of_idle {c : Impl} {s : State} (h : s.dir = .idle) : WindowOk c s := by
  refine ⟨fun hp => ?_, fun hb => ?_⟩
  · cases h.symm.trans hp
  · cases h.symm.trans hb

/-- The window depends on `DIR`, `CUR` and `LIM` alone. -/
theorem WindowOk.congr {c : Impl} {s t : State} (h : WindowOk c s) (hd : t.dir = s.dir) (hc : t.cur = s.cur)
    (hl : t.lim = s.lim) : WindowOk c t := by
  unfold WindowOk at h ⊢
  rwa [hd, hc, hl]

theorem rxSize_le (c : Impl) : c.rxSize ≤ 65535 := by
  unfold Impl.rxSize; omega

theorem txSize_le (c : Impl) : c.txSize ≤ 65535 := by
  unfold Impl.txSize; omega

theorem openWindow_bounds {d : Dir} {b l size : Nat} {s : State} (hbl : b ≤ l) (hl : l ≤ size) (hs : size ≤ 65535) :
    (openWindow d b l s).cur.toNat ≤ (openWindow d b l s).lim.toNat ∧ (openWindow d b l s).lim.toNat ≤ size := by
  rw [openWindow_cur, openWindow_lim, BitVec.toNat_ofNat, BitVec.toNat_ofNat, Nat.mod_eq_of_lt (by omega),
    Nat.mod_eq_of_lt (by omega)]
  exact ⟨hbl, hl⟩

theorem windowOk_openParse {c : Impl} {b l : Nat} (s : State) (hbl : b ≤ l) (hl : l ≤ c.rxSize) :
    WindowOk c (openWindow .parse b l s) := ⟨fun _ => openWindow_bounds hbl hl (rxSize_le c), nofun⟩

theorem windowOk_openBuild {c : Impl} {b l : Nat} (s : State) (hbl : b ≤ l) (hl : l ≤ c.txSize) :
    WindowOk c (openWindow .build b l s) := ⟨nofun, fun _ => openWindow_bounds hbl hl (txSize_le c)⟩

theorem advance_cur_le {k : Nat} {s : State} (hs : s.cur.toNat ≤ s.lim.toNat) (hk : k ≤ left s) :
    (advance k s).cur.toNat ≤ (advance k s).lim.toNat := by
  rw [advance_cur, toNat_advance hk hs, advance_lim]
  unfold left at hk
  omega

/-- The cursor moves by no more than what is left (R36, R151, R155). -/
theorem WindowOk.advance {c : Impl} {k : Nat} {s : State} (h : WindowOk c s) (hk : k ≤ left s) :
    WindowOk c (advance k s) :=
  ⟨fun hp => ⟨advance_cur_le (h.1 hp).1 hk, (h.1 hp).2⟩, fun hb => ⟨advance_cur_le (h.2 hb).1 hk, (h.2 hb).2⟩⟩

/-- An open window ends within the 65535 octets a buffer can have. -/
theorem WindowOk.lim_le {c : Impl} {s : State} (h : WindowOk c s) (hd : s.dir ≠ .idle) : s.lim.toNat ≤ 65535 := by
  cases hdir : s.dir with
  | idle => exact absurd hdir hd
  | parse => exact (h.1 hdir).2.trans (rxSize_le c)
  | build => exact (h.2 hdir).2.trans (txSize_le c)

theorem CodecEffect.windowOk {c : Impl} {s t : State} {i : Instr} (h : CodecEffect s i t) (hs : WindowOk c s) :
    WindowOk c t := by
  cases h with
  | read _ _ _ _ hk | read2 _ _ _ _ _ hk | readShort _ _ _ hk => exact (hs.advance hk).congr rfl rfl rfl
  | write _ _ _ _ hk => exact (hs.advance hk).congr rfl rfl rfl
  | range => exact hs.congr rfl rfl rfl

theorem Effect.windowOk {s t : State} {i : Instr} (h : Effect s i t) (hs : WindowOk Config.impl s) :
    WindowOk Config.impl t := by
  cases h with
  | codec _ _ h => exact h.windowOk hs
  | openRd h => exact (windowOk_openParse s (Nat.le_add_right _ _) h).congr rfl rfl rfl
  | openWr h => exact (windowOk_openBuild s (Nat.le_add_right _ _) h).congr rfl rfl rfl
  | close | build | parse => exact windowOk_of_idle rfl
  | paramsTaken | paramsRejected | setAllPorts | isAllPorts | actionTaken | actionRejected => exact hs.congr rfl rfl rfl

/-- Everything a command that opens a window can do (R158, R159). -/
theorem openWith_next {size : Nat} {d : Dir} {s t : State} (h : openWith size d s = .next t) :
    s.x.x0.toNat + s.x.x1.toNat ≤ size ∧
      t = (openWindow d s.x.x0.toNat (s.x.x0.toNat + s.x.x1.toNat) s).withStatus .ok := by
  unfold openWith at h
  split at h
  · cases h; exact ⟨by assumption, rfl⟩
  · cases h

/-- OPEN_RD and OPEN_WR establish the window from any state; every other command keeps it. -/
theorem exec_windowOk {i : Instr} {s t : State} (hs : i = .openRd ∨ i = .openWr ∨ WindowOk Config.impl s)
    (h : exec i s = .next t) : WindowOk Config.impl t := by
  rcases hs with rfl | rfl | hs
  · obtain ⟨hfits, rfl⟩ := openWith_next h
    exact (windowOk_openParse s (Nat.le_add_right _ _) hfits).congr rfl rfl rfl
  · obtain ⟨hfits, rfl⟩ := openWith_next h
    exact (windowOk_openBuild s (Nat.le_add_right _ _) hfits).congr rfl rfl rfl
  · exact (exec_effect i h).windowOk hs

/-- Settles O50: `exec_windowOk`, and the bound on `LIM` it gives. -/
theorem commandsKeepTheWindowInsideItsBuffer : Obligations.CommandsKeepTheWindowInsideItsBuffer := by
  intro i s t hs h
  have hw := exec_windowOk hs h
  exact ⟨hw, hw.lim_le⟩

/-! ### The action (R205) -/

/-- What SET_ACTION accepts (R213). -/
theorem actionAccepted_row {c : Impl} {par : ParamRegs} {act : BitVec 4} {id : BitVec 16}
    (h : actionAccepted c par act id = true) :
    act.toNat ≤ 4 ∧ ∃ row, c.reg id = some row ∧ row.size ≠ .unsupported ∧ allowedAction row act = true := by
  unfold actionAccepted at h
  split at h
  · next row hrow =>
    simp only [Bool.and_eq_true, decide_eq_true_eq, bne_iff_ne] at h
    obtain ⟨⟨⟨hact, -⟩, hsize⟩, hallowed⟩ := h
    exact ⟨hact, row, hrow, hsize, hallowed⟩
  · cases h

theorem acceptedAction_dsValid_of_get {v : Bool} {act : BitVec 4} {id : BitVec 16} {s : State} (h : act = actGet) :
    (acceptedAction v act id s).dsValid = false := by
  simp [acceptedAction, h]

/-- An action that stays valid stays allowed; `PV` may be set but not cleared. -/
theorem ActionOk.congr {c : Impl} {s t : State} (h : ActionOk c s) (hav : t.av = s.av) (hact : t.act = s.act)
    (hpv : s.pv = true → t.pv = true) : ActionOk c t := by
  intro ht
  obtain ⟨hp, hrest⟩ := h (hav.symm.trans ht)
  rw [hact]
  exact ⟨hpv hp, hrest⟩

theorem Effect.actionOk {s t : State} {i : Instr} (h : Effect s i t) (hs : ActionOk Config.impl s) :
    ActionOk Config.impl t := by
  rcases h.action_cases with ⟨hact, hav⟩ | ⟨v, act, id, -, hp, haccepted, hact, -, -⟩
  · exact hs.congr hav hact h.pv_of_pv
  · obtain ⟨hle, hrow⟩ := actionAccepted_row haccepted
    intro _
    rw [hact]
    exact ⟨h.pv_of_pv hp, hle, acceptedAction_dsValid_of_get, hrow⟩

/-! ### The parse results (R66) -/

theorem resultsOk_parseResults {s t : State} {p : ParseEnd} (h : t.res = parseResults p s) : ResultsOk t := by
  unfold ResultsOk
  rw [h]
  cases p with
  | failed | noTlv | errorStatus => exact ⟨nofun, nofun⟩
  | request => exact ⟨nofun, fun _ => ⟨rfl, rfl⟩⟩
  | decoded => exact ⟨fun _ => rfl, fun _ => ⟨rfl, rfl⟩⟩

theorem ResultsOk.congr {s t : State} (h : ResultsOk s) (hr : t.res = s.res) : ResultsOk t := by
  unfold ResultsOk at h ⊢
  rwa [hr]

theorem Effect.resultsOk {s t : State} {i : Instr} (h : Effect s i t) (hs : ResultsOk s) : ResultsOk t := by
  cases h with
  | codec _ _ h => exact hs.congr (congrArg State.res h.frame :)
  | parse => exact resultsOk_parseResults rfl
  | openRd | openWr | close | paramsTaken | paramsRejected | setAllPorts | isAllPorts | actionTaken | actionRejected
  | build => exact hs.congr rfl

/-! ### The memories (R82) -/

/-- A memory in its canonical form with no octet at `size` or above. -/
def Memory.Fits (size : Nat) (m : Memory) : Prop := m.wf = true ∧ m.within size = true

theorem memoriesOk_iff {c : Impl} {s : State} :
    MemoriesOk c s ↔ s.rx.Fits c.rxSize ∧ s.tx.Fits c.txSize ∧ s.disp.Fits 255 := by
  refine ⟨fun h => ⟨h .rx, h .tx, h .disp⟩, fun ⟨hrx, htx, hdisp⟩ sp => ?_⟩
  cases sp with
  | rx => exact hrx
  | tx => exact htx
  | disp => exact hdisp

theorem Memory.Fits.write {size : Nat} {m : Memory} (h : m.Fits size) {a : Nat} (ha : a < size) (o : Octet) :
    (m.write a o).Fits size := ⟨Memory.wf_write h.1 a o, Memory.within_write h.2 ha o⟩

theorem Memory.Fits.writeBytes {size : Nat} {m : Memory} (h : m.Fits size) {a : Nat} {o : List Octet}
    (ha : a + o.length ≤ size) : (m.writeBytes a o).Fits size :=
  ⟨Memory.wf_writeBytes h.1 a o, Memory.within_writeBytes h.2 o ha⟩

theorem displayAfter_fits {text : List Octet} (h : text.length ≤ 255) (s : State) : (displayAfter text s).Fits 255 := by
  refine ⟨Memory.wf_ofOctets _, Memory.within_ofOctets 0 _ ?_⟩
  rw [List.length_append, freeOctets_length]
  omega

/-- Appending what fits in an open build window stays inside `TX` (R155). -/
theorem appended_tx_fits {c : Impl} {o : List Octet} {s : State} (hw : WindowOk c s) (hd : s.dir = .build)
    (ho : o.length ≤ left s) (hm : s.tx.Fits c.txSize) : (appended o s).tx.Fits c.txSize := by
  obtain ⟨hcur, hlim⟩ := hw.2 hd
  refine hm.writeBytes ?_
  unfold left at ho
  omega

theorem CodecEffect.tx_fits {c : Impl} {s t : State} {i : Instr} (h : CodecEffect s i t) (hw : WindowOk c s)
    (hm : s.tx.Fits c.txSize) : t.tx.Fits c.txSize := by
  cases h with
  | write _ _ _ hd ho => exact appended_tx_fits hw hd ho hm
  | read | read2 | readShort | range => exact hm

theorem Effect.memoriesOk {s t : State} {i : Instr} (h : Effect s i t) (hw : WindowOk Config.impl s)
    (hs : MemoriesOk Config.impl s) : MemoriesOk Config.impl t := by
  obtain ⟨hrx, htx, hdisp⟩ := memoriesOk_iff.mp hs
  rw [memoriesOk_iff]
  cases h with
  | codec _ _ h =>
    have hrx' : t.rx = s.rx := (congrArg State.rx h.frame :)
    have hdisp' : t.disp = s.disp := (congrArg State.disp h.frame :)
    rw [hrx', hdisp']
    exact ⟨hrx, h.tx_fits hw htx, hdisp⟩
  | build _ _ _ _ _ _ hm => exact ⟨hrx, hm htx, hdisp⟩
  | parse => exact ⟨hrx, htx, displayAfter_fits (parseMessage_text_length _ _ s) s⟩
  | openRd | openWr | close | paramsTaken | paramsRejected | setAllPorts | isAllPorts | actionTaken | actionRejected =>
    exact ⟨hrx, htx, hdisp⟩

/-! ### The whole invariant -/

/-- Every command keeps the invariant. -/
theorem exec_sound {i : Instr} {s t : State} (hs : Sound Config.impl s) (h : exec i s = .next t) :
    Sound Config.impl t := by
  have he := exec_effect i h
  exact ⟨he.windowOk hs.window, he.actionOk hs.action, he.resultsOk hs.results, he.memoriesOk hs.window hs.memories⟩

/-- What the host does between commands: of all the invariant speaks of it can change `RX` alone. -/
theorem Sound.of_rx {c : Impl} {s : State} (hs : Sound c s) (rest : List HostStep) (v : Word64) (x : XRegs) {m : Memory}
    (hm : m.Fits c.rxSize) : Sound c { s with rx := m, host := rest, portOut := v, x := x } where
  window := hs.window.congr rfl rfl rfl
  action := hs.action.congr rfl rfl id
  results := hs.results.congr rfl
  memories :=
    have ⟨_, htx, hdisp⟩ := memoriesOk_iff.mp hs.memories
    memoriesOk_iff.mpr ⟨hm, htx, hdisp⟩

theorem Sound.rx_fits {c : Impl} {s : State} (hs : Sound c s) : s.rx.Fits c.rxSize := hs.memories .rx

/-- Settles O49: a command keeps the invariant, and the host's own accesses change at most an octet inside `RX`. -/
theorem everyStepKeepsTheInvariant : Obligations.EveryStepKeepsTheInvariant := by
  intro s t hs h
  rcases step_next h with ⟨_, rfl⟩ | ⟨_, rest, i, _, _, hx⟩ | ⟨_, rest, v, _, rfl⟩ | ⟨n, rest, v, hn, _, rfl⟩ |
    ⟨a, o, rest, _, ha, rfl⟩ | ⟨_, _, rest, v, _, rfl⟩
  · exact hs
  · exact exec_sound (hs.of_rx rest s.portOut s.x hs.rx_fits) hx
  · exact hs.of_rx rest v s.x hs.rx_fits
  · exact hs.of_rx rest s.portOut (s.x.set ⟨n.toNat, hn⟩ v) hs.rx_fits
  · exact hs.of_rx rest s.portOut s.x (hs.rx_fits.write ha o)
  · exact hs.of_rx rest v s.x hs.rx_fits

/-- Settles O48: no window, no action and no octet at reset. -/
theorem resetIsSound : Obligations.ResetIsSound := fun _ => {
  window := windowOk_of_idle rfl
  action := nofun
  results := ⟨nofun, nofun⟩
  memories := memoriesOk_iff.mpr ⟨⟨rfl, rfl⟩, ⟨rfl, rfl⟩, ⟨rfl, rfl⟩⟩ }

/-- Settles O47: reading the fields of `State.reset` (R321). -/
theorem resetHoldsTheSpecifiedValues : Obligations.ResetHoldsTheSpecifiedValues :=
  ⟨rfl, rfl, rfl, rfl, rfl, rfl, rfl, rfl⟩

end Sys2Proof.Machine
end

section
/-! The register port of the host, and the commands that need parameters or an action (10_state.md R40, R67;
42_frame_engine.md R221). -/

namespace Sys2Proof.Machine

/-! ### The register port (R67) -/

theorem step_readRegister {s : State} {number : BitVec 8} {rest : List HostStep}
    (hs : s.host = .readRegister number :: rest) : step s = hostReadRegister number (s.withHost rest) := by
  simp only [step, hs]

theorem step_writeRegister {s : State} {number : BitVec 8} {v : Word64} {rest : List HostStep}
    (hs : s.host = .writeRegister number v :: rest) : step s = hostWriteRegister number v (s.withHost rest) := by
  simp only [step, hs]

theorem hostReadRegister_mapped {s : State} {number : BitVec 8} {v : Word64} (h : registerMap s number = some v) :
    hostReadRegister number s = .next (s.withPortOut v) := by
  simp only [hostReadRegister, h]

theorem hostReadRegister_unmapped {s : State} {number : BitVec 8} (h : registerMap s number = none) :
    hostReadRegister number s = .refused .unmappedRegister := by
  simp only [hostReadRegister, h]

theorem hostWriteRegister_general {number : BitVec 8} (h : number.toNat < 8) (v : Word64) (s : State) :
    hostWriteRegister number v s = .next (s.writeX ⟨number.toNat, h⟩ v) := dif_pos h

theorem hostWriteRegister_other {number : BitVec 8} (h : 8 ≤ number.toNat) (v : Word64) (s : State) :
    hostWriteRegister number v s = .refused .registerNotWritable := dif_neg (Nat.not_lt.mpr h)

theorem bitWord_eq (b : Bool) : bitWord b = BitVec.ofNat 64 b.toNat := by
  cases b with
  | false => rfl
  | true => rfl

/-- Row by row, the register map gives what `mappedRegisters` lists. -/
theorem registerMap_of_row (s : State) :
    ∀ p ∈ mappedRegisters, registerMap s (BitVec.ofNat 8 p.1) = some (BitVec.ofNat 64 (p.2 s)) := by
  refine List.map_inj_left.mp ?_
  simp only [mappedRegisters, List.map_cons, List.map_nil, BitVec.ofNat_toNat, BitVec.setWidth_eq, ← bitWord_eq]
  rfl

theorem registerMap_of_mem {s : State} {number : BitVec 8} {f : State → Nat}
    (h : (number.toNat, f) ∈ mappedRegisters) : registerMap s number = some (BitVec.ofNat 64 (f s)) := by
  have hrow := registerMap_of_row s _ h
  rwa [BitVec.ofNat_toNat, BitVec.setWidth_eq] at hrow

/-- No register of the map is one of the model's own fields. -/
theorem registerMap_withHost (s : State) (rest : List HostStep) (number : BitVec 8) :
    registerMap (s.withHost rest) number = registerMap s number := rfl

/-- A number with a register is in the table of R67. -/
theorem mem_of_registerMap {s : State} {number : BitVec 8} {v : Word64} (h : registerMap s number = some v) :
    number.toNat ∈ mappedRegisters.map (·.1) := by
  unfold registerMap at h
  split at h
  case h_44 => cases h
  all_goals (rename_i hn; rw [hn]; simp [mappedRegisters])

theorem registerMap_of_not_mem {s : State} {number : BitVec 8} (h : number.toNat ∉ mappedRegisters.map (·.1)) :
    registerMap s number = none :=
  Option.eq_none_iff_forall_ne_some.mpr fun _ hv => h (mem_of_registerMap hv)

/-- Settles O7: the read port by the table's rows, the write port by its bound. -/
theorem registerPortFollowsTheMap : Obligations.RegisterPortFollowsTheMap := by
  refine ⟨fun s number rest hs => ⟨fun f hf => ?_, fun hn => ?_⟩, fun s number v rest hs => ⟨fun hn => ?_, fun hn => ?_⟩⟩
  · rw [step_readRegister hs]
    exact hostReadRegister_mapped ((registerMap_withHost s rest number).trans (registerMap_of_mem hf))
  · rw [step_readRegister hs, hostReadRegister_unmapped (registerMap_of_not_mem hn)]
  · rw [step_writeRegister hs, hostWriteRegister_general hn]
    refine ⟨_, rfl, rfl, XRegs.get_set_same s.x _ v, fun j hj => XRegs.get_set_ne s.x v fun heq => hj ?_⟩
    rw [heq]
  · rw [step_writeRegister hs, hostWriteRegister_other hn]

/-! ### Parameters and action missing (R40, R221) -/

theorem whenBuildable_refused_of_pv {f : State → Result} {s : State} (h : s.pv = false) :
    whenBuildable f s = .refused .parametersNotValid := withParameters_refused h

theorem whenBuildable_refused_of_av {f : State → Result} {s : State} (hp : s.pv = true) (ha : s.av = false) :
    whenBuildable f s = .refused .actionNotValid :=
  (withParameters_of_pv hp).trans (if_neg (by simp [ha]))

theorem setActionWith_refused {c : Impl} {v : Bool} {act : BitVec 4} {id : BitVec 16} {s : State} (h : s.pv = false) :
    setActionWith c v act id s = .refused .parametersNotValid := withParameters_refused h

theorem parseWith_refused {c : Impl} {s : State} (h : s.pv = false) :
    parseWith c s = .refused .parametersNotValid := withParameters_refused h

theorem exec_build_whenBuildable (seq : BitVec 16) (s : State) :
    exec (.build seq) s = whenBuildable (buildInto Config.impl Config.impl.txSize seq) s := rfl

theorem exec_buildCap_whenBuildable (seq : BitVec 16) (s : State) :
    exec (.buildCap seq) s =
      whenBuildable (fun s => if operand0 s ≤ Config.impl.txSize then buildInto Config.impl (operand0 s) seq s
        else .refused .lengthBeyondBuffer) s := rfl

/-- Settles O35: each of these commands runs in a frame that tests `PV` first, then `AV`. -/
theorem unconfiguredCommandsAreRefused : Obligations.UnconfiguredCommandsAreRefused := by
  refine ⟨fun s v act id seq hp => ?_, fun s seq hp ha => ?_⟩
  · simp only [List.forall_mem_cons, exec_setAllPorts, exec_isAllPorts, exec_setAction, exec_build_whenBuildable,
      exec_buildCap_whenBuildable, exec_parse]
    exact ⟨withParameters_refused hp, withParameters_refused hp, setActionWith_refused hp,
      whenBuildable_refused_of_pv hp, whenBuildable_refused_of_pv hp, parseWith_refused hp, nofun⟩
  · rw [exec_build_whenBuildable, exec_buildCap_whenBuildable]
    exact ⟨whenBuildable_refused_of_av hp ha, whenBuildable_refused_of_av hp ha⟩

end Sys2Proof.Machine
end

section
/-! The memories: which commands change them (20_memory.md R73, R89), and the host's access to them one
octet at a time (R80). -/

namespace Sys2Proof.Machine

/-! ### What the commands leave of the memories and the result registers -/

/-- No command writes `RX` (R89). -/
theorem Effect.rx_eq {s t : State} {i : Instr} (h : Effect s i t) : t.rx = s.rx := by
  cases h with
  | codec _ _ h => exact (congrArg State.rx h.frame :)
  | openRd | openWr | close | paramsTaken | paramsRejected | setAllPorts | isAllPorts | actionTaken | actionRejected
  | build | parse => rfl

theorem Effect.disp_res_eq {s t : State} {i : Instr} (h : Effect s i t) (hi : i ≠ .parse) :
    t.disp = s.disp ∧ t.res = s.res := by
  cases h with
  | codec _ _ h => exact ⟨(congrArg State.disp h.frame :), (congrArg State.res h.frame :)⟩
  | parse => exact absurd rfl hi
  | openRd | openWr | close | paramsTaken | paramsRejected | setAllPorts | isAllPorts | actionTaken | actionRejected
  | build => exact ⟨rfl, rfl⟩

/-- Of the codec commands the writes alone change `TX`; a failed range check keeps it too. -/
theorem CodecEffect.tx_eq {s t : State} {i : Instr} (h : CodecEffect s i t) (hi : i ∉ writeCommands) : t.tx = s.tx := by
  cases h with
  | write _ _ hw => exact absurd hw hi
  | read | read2 | readShort | range => rfl

theorem Effect.tx_eq {s t : State} {i : Instr} (h : Effect s i t) (hw : i ∉ writeCommands)
    (hb : ∀ seq, i ≠ .build seq ∧ i ≠ .buildCap seq) : t.tx = s.tx := by
  cases h with
  | codec _ _ h => exact h.tx_eq hw
  | build _ _ _ _ hi =>
    rcases hi with ⟨seq, hseq⟩ | ⟨seq, hseq⟩
    · exact absurd hseq (hb seq).1
    · exact absurd hseq (hb seq).2
  | openRd | openWr | close | paramsTaken | paramsRejected | setAllPorts | isAllPorts | actionTaken | actionRejected
  | parse => rfl

/-- Settles O52, from what each effect leaves of the memories and the result registers. -/
theorem memoriesChangeOnlyByTheirCommands : Obligations.MemoriesChangeOnlyByTheirCommands := by
  intro i s t h
  have he := exec_effect i h
  exact ⟨he.rx_eq, he.disp_res_eq, he.tx_eq⟩

/-! ### Storing octets (R16, R80) -/

theorem Memory.stores_writeBytes (m : Memory) (a : Nat) (o : List Octet) : Stores m (m.writeBytes a o) a o := by
  refine ⟨fun j hj => ?_, fun b hb => ?_⟩
  · rw [Memory.read_writeBytes, dif_pos ⟨Nat.le_add_right a j, by omega⟩]
    simp only [Nat.add_sub_cancel_left]
  · rw [Memory.read_writeBytes, dif_neg (by omega)]

theorem Memory.stores_write (m : Memory) (a : Nat) (o : Octet) : Stores m (m.write a o) a [o] :=
  m.stores_writeBytes a [o]

/-! ### The host's access to the memories (R73) -/

theorem step_writeRx {s : State} {a : Nat} {o : Octet} {rest : List HostStep} (hs : s.host = .writeRx a o :: rest) :
    step s = hostWriteRx Config.impl a o (s.withHost rest) := by
  simp only [step, hs]

theorem step_readOctet {s : State} {sp : Space} {a : Nat} {rest : List HostStep}
    (hs : s.host = .readOctet sp a :: rest) : step s = hostReadOctet Config.impl sp a (s.withHost rest) := by
  simp only [step, hs]

theorem hostWriteRx_inside {c : Impl} {a : Nat} (h : a < c.rxSize) (o : Octet) (s : State) :
    hostWriteRx c a o s = .next (s.withRx (s.rx.write a o)) := if_pos h

theorem hostWriteRx_outside {c : Impl} {a : Nat} (h : c.rxSize ≤ a) (o : Octet) (s : State) :
    hostWriteRx c a o s = .fault (.noSuchOctet .rx a) := if_neg (Nat.not_lt.mpr h)

theorem hostReadOctet_inside {c : Impl} {sp : Space} {a : Nat} (h : a < spaceSize c sp) (s : State) :
    hostReadOctet c sp a s = .next (s.withPortOut (BitVec.ofNat 64 ((s.space sp).read a).toNat)) := by
  rw [BitVec.ofNat_toNat]
  exact if_pos h

theorem hostReadOctet_outside {c : Impl} {sp : Space} {a : Nat} (h : spaceSize c sp ≤ a) (s : State) :
    hostReadOctet c sp a s = .fault (.noSuchOctet sp a) := if_neg (Nat.not_lt.mpr h)

/-- The host's list is in no memory. -/
theorem State.space_withHost (s : State) (rest : List HostStep) (sp : Space) :
    (s.withHost rest).space sp = s.space sp := by
  cases sp with
  | rx | tx | disp => rfl

/-- Settles O8: inside the memory one octet moves, outside it the access faults. -/
theorem hostMovesOneOctet : Obligations.HostMovesOneOctet := by
  refine ⟨fun s a o rest hs => ?_, fun s sp a rest hs => ?_⟩
  · rw [step_writeRx hs]
    exact ⟨fun ha => ⟨_, s.rx.stores_write a o, hostWriteRx_inside ha o _⟩, fun ha => hostWriteRx_outside ha o _⟩
  · rw [step_readOctet hs]
    refine ⟨fun ha => ?_, fun ha => hostReadOctet_outside ha _⟩
    rw [hostReadOctet_inside ha, State.space_withHost]
    rfl

end Sys2Proof.Machine
end

section
/-! The command word: decoder and encoder invert each other, and a word is refused exactly where it is not well formed
(30_encoding.md R100 to R104). -/

namespace Sys2Proof

/-! ### Fields of a word -/

theorem append_eq_append_iff {m n : Nat} {hi hi' : BitVec m} {lo lo' : BitVec n} :
    hi ++ lo = hi' ++ lo' ↔ hi = hi' ∧ lo = lo' := by
  refine ⟨fun h => ?_, fun ⟨hhi, hlo⟩ => by rw [hhi, hlo]⟩
  have hhi := congrArg (BitVec.extractLsb' n m) h
  have hlo := congrArg (BitVec.extractLsb' 0 n) h
  rw [BitVec.extractLsb'_append_eq_left, BitVec.extractLsb'_append_eq_left] at hhi
  rw [BitVec.extractLsb'_append_eq_right, BitVec.extractLsb'_append_eq_right] at hlo
  exact ⟨hhi, hlo⟩

/-- A field made of two parts, part by part. -/
theorem extract_eq_append_iff {w a m n : Nat} {x : BitVec w} {hi : BitVec m} {lo : BitVec n} :
    x.extractLsb' a (m + n) = hi ++ lo ↔ x.extractLsb' (a + n) m = hi ∧ x.extractLsb' a n = lo := by
  rw [← BitVec.extractLsb'_append_extractLsb'_eq_extractLsb' rfl, append_eq_append_iff]

theorem extract_one_eq_ofBool_iff {w a : Nat} {x : BitVec w} {b : Bool} :
    x.extractLsb' a 1 = BitVec.ofBool b ↔ x.getLsbD a = b := by
  rw [BitVec.eq_of_getLsbD_eq_iff]
  simp

/-- A word is its opcode and its immediate (R100). -/
theorem encode_eq_iff {i : Instr} {w : CommandWord} :
    encode i = w ↔ opcodeField w = opcodeOf i ∧ w.extractLsb' 0 24 = immediateOf i := by
  rw [eq_comm]
  have h := extract_eq_append_iff (x := w) (a := 0) (hi := opcodeOf i) (lo := immediateOf i)
  rwa [BitVec.extractLsb'_eq_self] at h

/-! ### The row of an instruction (R103) -/

/-- The decoder of the instruction's row in the opcode map, chosen by its format (R101, R103). -/
def decodeRow (w : CommandWord) : Instr → Except DecodeError Instr
  | .setAction _ _ _ => decodeAction w .setAction
  | .build _ => decodeSeq w .build
  | .buildCap _ => decodeSeq w .buildCap
  | i => decodePlain w i

/-- The opcode alone chooses the row (R103). -/
theorem decode_of_opcodeField {w : CommandWord} {i : Instr} (h : opcodeField w = opcodeOf i) :
    decode w = decodeRow w i := by
  unfold decode
  rw [h]
  cases i <;> rfl

theorem opcodeField_of_decode {w : CommandWord} {i : Instr} (h : decode w = .ok i) : opcodeField w = opcodeOf i := by
  unfold decode at h
  split at h
  -- no row, then the rows of SET_ACTION, BUILD and BUILD_CAP, then those of format N
  case h_39 => cases h
  case h_35 hop =>
    obtain ⟨-, rfl⟩ := decodeAction_ok h
    exact BitVec.eq_of_toNat_eq hop
  case h_36 hop | h_37 hop =>
    obtain ⟨-, rfl⟩ := decodeSeq_ok h
    exact BitVec.eq_of_toNat_eq hop
  all_goals next hop =>
    obtain ⟨-, rfl⟩ := decodePlain_ok h
    exact BitVec.eq_of_toNat_eq hop

theorem decodePlain_eq_ok_iff {w : CommandWord} {i j : Instr} :
    decodePlain w i = .ok j ↔ w.extractLsb' 0 24 = 0 ∧ j = i :=
  ⟨decodePlain_ok, fun ⟨hz, hj⟩ => hj ▸ if_pos hz⟩

theorem decodeSeq_eq_ok_iff {w : CommandWord} {f : BitVec 16 → Instr} {j : Instr} :
    decodeSeq w f = .ok j ↔ w.extractLsb' 16 8 = 0 ∧ j = f (w.extractLsb' 0 16) :=
  ⟨decodeSeq_ok, fun ⟨hz, hj⟩ => hj ▸ if_pos hz⟩

theorem decodeAction_eq_ok_iff {w : CommandWord} {f : Bool → BitVec 4 → BitVec 16 → Instr} {j : Instr} :
    decodeAction w f = .ok j ↔
      w.extractLsb' 21 3 = 0 ∧ j = f (w.getLsbD 20) (w.extractLsb' 16 4) (w.extractLsb' 0 16) :=
  ⟨decodeAction_ok, fun ⟨hz, hj⟩ => hj ▸ if_pos hz⟩

/-- The immediate of format Q, field by field (R101). -/
theorem extract_eq_immediate_build_iff {w : CommandWord} {seq : BitVec 16} :
    w.extractLsb' 0 24 = immediateOf (.build seq) ↔ w.extractLsb' 16 8 = 0 ∧ w.extractLsb' 0 16 = seq :=
  extract_eq_append_iff (hi := 0#8) (lo := seq)

/-- The immediate of format S, field by field (R101). -/
theorem extract_eq_immediate_setAction_iff {w : CommandWord} {v : Bool} {act : BitVec 4} {id : BitVec 16} :
    w.extractLsb' 0 24 = immediateOf (.setAction v act id) ↔
      w.extractLsb' 21 3 = 0 ∧ w.getLsbD 20 = v ∧ w.extractLsb' 16 4 = act ∧ w.extractLsb' 0 16 = id := by
  calc
    _ ↔ ((w.extractLsb' 21 3 = 0 ∧ w.extractLsb' 20 1 = BitVec.ofBool v) ∧ w.extractLsb' 16 4 = act) ∧
        w.extractLsb' 0 16 = id :=
      extract_eq_append_iff.trans (and_congr_left' (extract_eq_append_iff.trans (and_congr_left'
        (extract_eq_append_iff (hi := 0#3) (lo := BitVec.ofBool v)))))
    _ ↔ _ := by rw [extract_one_eq_ofBool_iff, and_assoc, and_assoc]

/-- An instruction's row gives it back from the words with its immediate, and from no others. -/
theorem decodeRow_eq_ok_iff {w : CommandWord} {i : Instr} :
    decodeRow w i = .ok i ↔ w.extractLsb' 0 24 = immediateOf i := by
  cases i with
  | setAction v act id =>
    rw [extract_eq_immediate_setAction_iff]
    exact decodeAction_eq_ok_iff.trans (and_congr_right' (by rw [Instr.setAction.injEq]; tauto))
  | build seq =>
    rw [extract_eq_immediate_build_iff]
    exact decodeSeq_eq_ok_iff.trans (and_congr_right' (by rw [Instr.build.injEq, eq_comm]))
  | buildCap seq =>
    refine Iff.trans ?_ (extract_eq_immediate_build_iff (seq := seq)).symm
    exact decodeSeq_eq_ok_iff.trans (and_congr_right' (by rw [Instr.buildCap.injEq, eq_comm]))
  | _ => exact decodePlain_eq_ok_iff.trans (and_iff_left rfl)

/-! ### The round trip -/

/-- Decoder and encoder are inverse to each other: the opcode chooses the row, the immediate the operands. -/
theorem decode_eq_ok_iff {w : CommandWord} {i : Instr} : decode w = .ok i ↔ encode i = w := by
  rw [encode_eq_iff, ← decodeRow_eq_ok_iff]
  constructor
  · intro h
    have hop := opcodeField_of_decode h
    exact ⟨hop, decode_of_opcodeField hop ▸ h⟩
  · rintro ⟨hop, hrow⟩
    rw [decode_of_opcodeField hop, hrow]

/-- Settles O1: `decode_eq_ok_iff` at the word `encode i`. -/
theorem decodeInvertsEncode : Obligations.DecodeInvertsEncode :=
  fun _ => decode_eq_ok_iff.mpr rfl

/-- Settles O2: `decode_eq_ok_iff`, from the decoder to the encoder. -/
theorem encodeInvertsDecode : Obligations.EncodeInvertsDecode :=
  fun _ _ => decode_eq_ok_iff.mp

/-- Settles O4: the words are the encodings of their commands. -/
theorem wordsOfTheMapDecode : Obligations.WordsOfTheMapDecode := by
  unfold Obligations.WordsOfTheMapDecode
  simp only [decode_eq_ok_iff]
  decide

/-! ### Well-formed words (R104) -/

theorem wordWellFormed_encode (i : Instr) : wordWellFormed (encode i) = true := by
  cases i with
  | setAction v act id => exact Laws.EncodesWellFormed.setAction v act id
  | build seq => exact Laws.EncodesWellFormed.build seq
  | buildCap seq => exact Laws.EncodesWellFormed.buildCap seq
  | _ => rfl

/-- The opcode field, as WellFormed.lean takes it. -/
theorem toNat_div_eq_opcodeField (w : CommandWord) : w.toNat / 2 ^ 24 = (opcodeField w).toNat := by
  rw [opcodeField, BitVec.extractLsb'_toNat, Nat.shiftRight_eq_div_pow]
  have := w.isLt
  omega

/-- Zeros under a mask are zeros in each field the mask covers. -/
theorem extract_eq_zero_of_and {w m : CommandWord} {a n : Nat} (hw : w &&& m = 0)
    (hm : m.extractLsb' a n = BitVec.allOnes n) : w.extractLsb' a n = 0 := by
  calc
    w.extractLsb' a n = w.extractLsb' a n &&& m.extractLsb' a n := by rw [hm, BitVec.and_allOnes]
    _ = (w &&& m).extractLsb' a n := BitVec.extractLsb'_and.symm
    _ = 0 := by rw [hw]; exact BitVec.extractLsb'_zero

/-- The commands of format N. -/
def plainCommands : List Instr :=
  [.openRd, .openWr, .close,
   .rdU8, .rdU16, .rdU32, .rdU48, .rdU64, .rdI8, .rdI16, .rdI32, .rdI48, .rdI64, .rdU64le,
   .wrU8, .wrU16, .wrU32, .wrU48, .wrU64, .wrI8, .wrI16, .wrI32, .wrI48, .wrI64, .wrU64le,
   .rdTimestamp, .rdClockid, .rdPortid, .wrTimestamp, .wrClockid, .wrPortid,
   .updateParams, .setAllPorts, .isAllPorts, .parse]

theorem exists_plainCommand {n : Nat} (h : n ∈ plainOpcodes) : ∃ i ∈ plainCommands, (opcodeOf i).toNat = n :=
  List.mem_map.mp ((by decide : plainOpcodes = plainCommands.map fun i => (opcodeOf i).toNat) ▸ h)

theorem immediate_of_plainCommand : ∀ i ∈ plainCommands, immediateOf i = 0 := by decide

theorem formatOf_eq_some {n : Nat} {f : Format} (h : formatOf n = some f) :
    (f = .s ∧ n = 0x43) ∨ (f = .q ∧ (n = 0x48 ∨ n = 0x49)) ∨ (f = .n ∧ n ∈ plainOpcodes) := by
  unfold formatOf at h
  split_ifs at h with hs hq hn
  · cases h; exact .inl ⟨rfl, hs⟩
  · cases h; exact .inr (.inl ⟨rfl, hq⟩)
  · cases h; exact .inr (.inr ⟨rfl, hn⟩)

/-- The well-formed words are the encodings. -/
theorem wordWellFormed_iff {w : CommandWord} : wordWellFormed w = true ↔ ∃ i, encode i = w := by
  refine ⟨fun h => ?_, fun ⟨i, hi⟩ => hi ▸ wordWellFormed_encode i⟩
  unfold wordWellFormed at h
  split at h
  next f hf =>
    have hz := eq_of_beq h
    rw [toNat_div_eq_opcodeField] at hf
    obtain ⟨rfl, hop⟩ | ⟨rfl, hop | hop⟩ | ⟨rfl, hop⟩ := formatOf_eq_some hf
    · have hr : w.extractLsb' 21 3 = 0 := extract_eq_zero_of_and hz rfl
      exact ⟨.setAction _ _ _, encode_eq_iff.mpr
        ⟨BitVec.eq_of_toNat_eq hop, extract_eq_immediate_setAction_iff.mpr ⟨hr, rfl, rfl, rfl⟩⟩⟩
    · have hr : w.extractLsb' 16 8 = 0 := extract_eq_zero_of_and hz rfl
      exact ⟨.build _, encode_eq_iff.mpr
        ⟨BitVec.eq_of_toNat_eq hop, extract_eq_immediate_build_iff.mpr ⟨hr, rfl⟩⟩⟩
    · have hr : w.extractLsb' 16 8 = 0 := extract_eq_zero_of_and hz rfl
      exact ⟨.buildCap _, encode_eq_iff.mpr
        ⟨BitVec.eq_of_toNat_eq hop, extract_eq_immediate_build_iff.mpr ⟨hr, rfl⟩⟩⟩
    · have hr : w.extractLsb' 0 24 = 0 := extract_eq_zero_of_and hz rfl
      obtain ⟨i, hi, hn⟩ := exists_plainCommand hop
      exact ⟨i, encode_eq_iff.mpr
        ⟨BitVec.eq_of_toNat_eq hn.symm, hr.trans (immediate_of_plainCommand i hi).symm⟩⟩
  next => cases h

end Sys2Proof

namespace Sys2Proof.Machine

/-! ### The refusal of a word (R104) -/

theorem step_command_error {s : State} {w : CommandWord} {rest : List HostStep} {e : DecodeError}
    (hs : s.host = .command w :: rest) (hd : decode w = .error e) : step s = .refused (refusalOf e) := by
  simp only [step, hs, hd]

/-- A word that is not well formed does not decode, so the step refuses it (R104). -/
theorem step_illFormed {s : State} {w : CommandWord} {rest : List HostStep} (hs : s.host = .command w :: rest)
    (hw : wordWellFormed w = false) : step s = .refused .unassignedOpcode ∨ step s = .refused .nonzeroReserved := by
  cases hd : decode w with
  | ok i => rw [wordWellFormed_iff.mpr ⟨i, decode_eq_ok_iff.mp hd⟩] at hw; cases hw
  | error e =>
    rw [step_command_error hs hd]
    cases e with
    | unassignedOpcode => exact .inl rfl
    | nonzeroReserved => exact .inr rfl

theorem actionAccepted_of_gt {c : Impl} {par : ParamRegs} {act : BitVec 4} {id : BitVec 16} (h : 4 < act.toNat) :
    actionAccepted c par act id = false :=
  Bool.eq_false_iff.mpr fun ha => absurd (actionAccepted_row ha).1 (Nat.not_le.mpr h)

/-- Settles O3: the well-formed words are the encodings, and SET_ACTION accepts no `act` above 4. -/
theorem reservedWordsAreRefused : Obligations.ReservedWordsAreRefused := by
  refine ⟨fun s w rest hs => ⟨step_illFormed hs, fun hw => ?_⟩, fun v act id s hact hp => ?_⟩
  · obtain ⟨i, hi⟩ := wordWellFormed_iff.mp hw
    exact ⟨i, decode_eq_ok_iff.mpr hi⟩
  · rw [exec_setAction]
    exact setActionWith_rejected hp (actionAccepted_of_gt hact)

end Sys2Proof.Machine
end

section
/-! The integer codings: what a coding's octets and values are, and that writing and reading in one coding invert each
other (00_scope.md R13, R14; 40_primitive_codec.md R153, R154, R156, R184, R185). -/

namespace Sys2Proof.Machine

/-! ### Octet strings as the statements write them -/

theorem two_pow_eight_mul (k : Nat) : 2 ^ (8 * k) = 256 ^ k := Nat.pow_mul 2 8 k

theorem bytesBE_eq_octetsBE (k : Nat) (v : Word64) : bytesBE k v = octetsBE k v.toNat := by
  induction k with
  | zero => rfl
  | succ k ih =>
    have hhead : (v >>> (8 * k)).setWidth 8 = BitVec.ofNat 8 (v.toNat / 256 ^ k) := by
      apply BitVec.eq_of_toNat_eq
      rw [BitVec.toNat_setWidth, BitVec.toNat_ushiftRight, Nat.shiftRight_eq_div_pow, two_pow_eight_mul,
        BitVec.toNat_ofNat]
    rw [bytesBE, ih, hhead, octetsBE, octetsBE, List.range_succ_eq_map, List.map_cons, List.map_map]
    refine congrArg (List.cons _) (List.map_congr_left fun j _ => ?_)
    rw [Function.comp_apply, show k + 1 - 1 - (j + 1) = k - 1 - j by omega]

theorem bytesLE_eq_octetsLE (k : Nat) (v : Word64) : bytesLE k v = octetsLE k v.toNat := by
  induction k generalizing v with
  | zero => rfl
  | succ k ih =>
    have hhead : v.setWidth 8 = BitVec.ofNat 8 (v.toNat / 256 ^ 0) := by
      rw [pow_zero, Nat.div_one]; rfl
    have htail : (v >>> 8).toNat = v.toNat / 256 := by
      rw [BitVec.toNat_ushiftRight, Nat.shiftRight_eq_div_pow]
    rw [bytesLE, ih, hhead, htail, octetsLE, octetsLE, List.range_succ_eq_map, List.map_cons, List.map_map]
    refine congrArg (List.cons _) (List.map_congr_left fun j _ => ?_)
    rw [Function.comp_apply, Nat.div_div_eq_div_mul, ← Nat.pow_succ']

theorem leNat_readBytes (m : Memory) (a k : Nat) : leNat (m.readBytes a k) = wireValueLE m a k := by
  induction k generalizing a with
  | zero => rfl
  | succ k ih =>
    rw [Memory.readBytes, leNat, ih, wireValueLE, wireValueLE, Finset.sum_range_succ', Finset.mul_sum, pow_zero,
      mul_one, Nat.add_comm]
    refine congrArg (· + _) (Finset.sum_congr rfl fun j _ => ?_)
    rw [Nat.add_assoc a 1 j, Nat.add_comm 1 j]
    ring

/-! ### The codings -/

/-- How an integer stands in octets: big-endian, read as unsigned or as signed, or little-endian. -/
inductive Coding where
  | unsigned
  | signed
  | little

/-- What a read of `k` octets puts in `x[0]` (R152 to R154). -/
def Coding.value : Coding → Nat → List Octet → Word64
  | .unsigned, _, o => BitVec.ofNat 64 (beNat o)
  | .signed, k, o => signExtended (8 * k) (beNat o)
  | .little, _, o => BitVec.ofNat 64 (leNat o)

/-- The `k` octets a write appends (R156). -/
def Coding.octets : Coding → Nat → Word64 → List Octet
  | .unsigned, k, v | .signed, k, v => bytesBE k v
  | .little, k, v => bytesLE k v

/-- The range check of a write: of the widths, 48 bits alone has one (R175, R180). -/
def Coding.inRange : Coding → Nat → Word64 → Bool
  | .unsigned, 6 => fitsU48
  | .signed, 6 => fitsI48
  | _, _ => anyValue

@[simp] theorem Coding.octets_length (c : Coding) (k : Nat) (v : Word64) : (c.octets k v).length = k := by
  cases c with
  | unsigned | signed => exact bytesBE_length k v
  | little => exact bytesLE_length k v

theorem Coding.octets_eq_bytesBE {c : Coding} (hc : c ≠ .little) (k : Nat) (v : Word64) :
    c.octets k v = bytesBE k v := by
  cases c with
  | unsigned | signed => rfl
  | little => exact absurd rfl hc

theorem Coding.octets_eq_octetsBE {c : Coding} (hc : c ≠ .little) (k : Nat) (v : Word64) :
    c.octets k v = octetsBE k v.toNat := (octets_eq_bytesBE hc k v).trans (bytesBE_eq_octetsBE k v)

/-! ### The 48-bit ranges -/

theorem fitsU48_iff {v : Word64} : fitsU48 v = true ↔ v.toNat < 2 ^ 48 := decide_eq_true_iff

/-- The range of R180 in signed integers. -/
theorem fitsI48_iff {v : Word64} : fitsI48 v = true ↔ -2 ^ 47 ≤ v.toInt ∧ v.toInt ≤ 2 ^ 47 - 1 := by
  have hv := v.isLt
  rw [fitsI48, beq_iff_eq, ← BitVec.toInt_inj, BitVec.toInt_signExtend_of_le (by norm_num),
    BitVec.toInt_eq_toNat_cond, BitVec.toInt_eq_toNat_cond, BitVec.toNat_setWidth]
  split_ifs <;> omega

/-- The low bits of a sign extension are the pattern extended. -/
theorem setWidth_signExtend_of_le {m n : Nat} (h : m ≤ n) (u : BitVec m) : (u.signExtend n).setWidth m = u := by
  apply BitVec.eq_of_getLsbD_eq
  intro j hj
  rw [BitVec.getLsbD_setWidth, BitVec.getLsbD_signExtend, if_pos hj]
  simp [hj, hj.trans_le h]

theorem fitsI48_signExtend (u : BitVec 48) : fitsI48 (u.signExtend 64) = true := by
  rw [fitsI48, beq_iff_eq, setWidth_signExtend_of_le (by norm_num)]

/-! ### Read, then write (R185) -/

theorem toNat_signExtended_mod {n u : Nat} (hn : n ≤ 64) (hu : u < 2 ^ n) : (signExtended n u).toNat % 2 ^ n = u := by
  have h := congrArg BitVec.toNat (setWidth_signExtend_of_le hn (BitVec.ofNat n u))
  rwa [BitVec.toNat_setWidth, BitVec.toNat_ofNat, Nat.mod_eq_of_lt hu] at h

theorem Coding.octets_value (c : Coding) {k : Nat} {o : List Octet} (ho : o.length = k) (hk : k ≤ 8) :
    c.octets k (c.value k o) = o := by
  subst ho
  cases c with
  | unsigned => exact bytesBE_beNat o hk
  | signed =>
    refine beNat_inj (bytesBE_length _ _) ?_
    rw [octets, beNat_bytesBE, value, ← two_pow_eight_mul]
    exact toNat_signExtended_mod (by omega) (two_pow_eight_mul _ ▸ beNat_lt o)
  | little => exact bytesLE_leNat o hk

theorem Coding.inRange_value (c : Coding) {k : Nat} {o : List Octet} (ho : o.length = k) :
    c.inRange k (c.value k o) = true := by
  have hlt := beNat_lt o
  unfold inRange
  split
  · rw [ho] at hlt
    rw [fitsU48_iff, value, BitVec.toNat_ofNat]
    exact (Nat.mod_le _ _).trans_lt hlt
  · exact fitsI48_signExtend _
  · rfl

/-! ### Write, then read (R184) -/

theorem Coding.unsigned_value_octets {c : Coding} (hc : c ≠ .little) (k : Nat) (v : Word64) :
    Coding.unsigned.value k (c.octets k v) = truncated (8 * k) v := by
  apply BitVec.eq_of_toNat_eq
  rw [octets_eq_bytesBE hc, value, beNat_bytesBE, truncated, BitVec.toNat_ofNat, BitVec.toNat_setWidth,
    BitVec.toNat_setWidth, two_pow_eight_mul]

theorem Coding.signed_value_octets {c : Coding} (hc : c ≠ .little) (k : Nat) (v : Word64) :
    Coding.signed.value k (c.octets k v) = truncatedSigned (8 * k) v := by
  have hw : BitVec.ofNat (8 * k) (v.toNat % 256 ^ k) = v.setWidth (8 * k) := by
    apply BitVec.eq_of_toNat_eq
    rw [BitVec.toNat_ofNat, BitVec.toNat_setWidth, two_pow_eight_mul, Nat.mod_mod]
  rw [octets_eq_bytesBE hc, value, beNat_bytesBE, signExtended, hw, truncatedSigned]

theorem Coding.little_value_octets (v : Word64) : Coding.little.value 8 (Coding.little.octets 8 v) = v := by
  rw [octets, value, leNat_bytesLE, ← two_pow_eight_mul, Nat.mod_eq_of_lt v.isLt, BitVec.ofNat_toNat,
    BitVec.setWidth_eq]

theorem truncated_64 : truncated 64 = id := by
  funext v
  rw [truncated, BitVec.setWidth_eq, BitVec.setWidth_eq, id]

theorem truncatedSigned_64 : truncatedSigned 64 = id := by
  funext v
  rw [truncatedSigned, BitVec.setWidth_eq, BitVec.signExtend_eq, id]

theorem truncated_of_fitsU48 {v : Word64} (h : fitsU48 v = true) : truncated 48 v = v := by
  rw [fitsU48_iff] at h
  apply BitVec.eq_of_toNat_eq
  rw [truncated, BitVec.toNat_setWidth, BitVec.toNat_setWidth, Nat.mod_eq_of_lt h, Nat.mod_eq_of_lt v.isLt]

theorem truncatedSigned_of_fitsI48 {v : Word64} (h : fitsI48 v = true) : truncatedSigned 48 v = v := beq_iff_eq.mp h

end Sys2Proof.Machine
end

section
/-! The cursor commands and the direction a codec command needs (40_primitive_codec.md R157 to R160). -/

namespace Sys2Proof.Machine

/-! ### The cursor commands -/

theorem openWith_inside {size : Nat} {d : Dir} {s : State} (h : s.x.x0.toNat + s.x.x1.toNat ≤ size) :
    openWith size d s = .next { s with dir := d, cur := BitVec.ofNat 32 s.x.x0.toNat,
                                       lim := BitVec.ofNat 32 (s.x.x0.toNat + s.x.x1.toNat), st := .ok } := if_pos h

theorem openWith_outside {size : Nat} {d : Dir} {s : State} (h : size < s.x.x0.toNat + s.x.x1.toNat) :
    openWith size d s = .refused .windowOutsideBuffer := if_neg (Nat.not_le.mpr h)

/-- Settles O9: `openWith` on `RX`. -/
theorem openRdOpensAParseWindow : Obligations.OpenRdOpensAParseWindow := by
  refine ⟨decode_eq_ok_iff.mpr rfl, fun s => ?_⟩
  rw [exec_openRd]
  exact ⟨openWith_inside, openWith_outside⟩

/-- Settles O10: `openWith` on `TX`. -/
theorem openWrOpensABuildWindow : Obligations.OpenWrOpensABuildWindow := by
  refine ⟨decode_eq_ok_iff.mpr rfl, fun s => ?_⟩
  rw [exec_openWr]
  exact ⟨openWith_inside, openWith_outside⟩

/-- Settles O11: `exec_close`, with the two updates written out. -/
theorem closeLeavesTheCursorReadable : Obligations.CloseLeavesTheCursorReadable :=
  ⟨decode_eq_ok_iff.mpr rfl, exec_close⟩

/-! ### The direction -/

theorem whileParsing_refused {f : State → Result} {s : State} (h : s.dir ≠ .parse) :
    whileParsing f s = .refused .wrongDirection := if_neg h

theorem whileBuilding_refused {f : State → Result} {s : State} (h : s.dir ≠ .build) :
    whileBuilding f s = .refused .wrongDirection := if_neg h

/-- Every read command runs in the frame that tests `DIR` first, the compound ones too. -/
theorem exec_readCommand {i : Instr} (hi : i ∈ readCommands) : ∃ f, ∀ s, exec i s = whileParsing f s := by
  cases i with
  | rdU8 | rdU16 | rdU32 | rdU48 | rdU64 | rdI8 | rdI16 | rdI32 | rdI48 | rdI64 | rdU64le | rdTimestamp | rdClockid
  | rdPortid => exact ⟨_, fun _ => rfl⟩
  | _ => simp [readCommands] at hi

theorem exec_writeCommand {i : Instr} (hi : i ∈ writeCommands) : ∃ f, ∀ s, exec i s = whileBuilding f s := by
  cases i with
  | wrU8 | wrU16 | wrU32 | wrU48 | wrU64 | wrI8 | wrI16 | wrI32 | wrI48 | wrI64 | wrU64le | wrTimestamp | wrClockid
  | wrPortid => exact ⟨_, fun _ => rfl⟩
  | _ => simp [writeCommands] at hi

/-- Settles O12: the frames of `exec_readCommand` and `exec_writeCommand`. -/
theorem wrongDirectionIsRefused : Obligations.WrongDirectionIsRefused := by
  refine ⟨fun i hi s hd => ?_, fun i hi s hd => ?_⟩
  · obtain ⟨f, hf⟩ := exec_readCommand hi
    rw [hf, whileParsing_refused hd]
  · obtain ⟨f, hf⟩ := exec_writeCommand hi
    rw [hf, whileBuilding_refused hd]

end Sys2Proof.Machine
end

section
/-! The commands that move one integer: what a read and a write of `k` octets in a coding do, said once, and that the
commands of 40_primitive_codec.md R161 to R182 and 41_compound_codec.md R194, R195 are such reads and writes. -/

namespace Sys2Proof.Machine

/-! ### Reading and writing one integer -/

/-- The command reads one integer of `k` octets in the coding `c`. -/
structure ReadsInteger (i : Instr) (k : Nat) (c : Coding) : Prop where
  bounds : 0 < k ∧ k ≤ 8
  refused : ∀ s : State, s.dir ≠ .parse → exec i s = .refused .wrongDirection
  full : ∀ s : State, s.dir = .parse → s.cur.toNat + k ≤ s.lim.toNat →
    exec i s = .next { s with x := { s.x with x0 := c.value k (s.rx.readBytes s.cur.toNat k) },
                              cur := s.cur + BitVec.ofNat 32 k, st := .ok }
  short : ∀ s : State, s.dir = .parse → s.lim.toNat < s.cur.toNat + k → exec i s = .next { s with st := .tooSmall }

/-- The command writes `x[0]` as `k` octets in the coding `c`, after the range check the width has. -/
structure WritesInteger (i : Instr) (k : Nat) (c : Coding) : Prop where
  refused : ∀ s : State, s.dir ≠ .build → exec i s = .refused .wrongDirection
  outOfRange : ∀ s : State, s.dir = .build → c.inRange k s.x.x0 = false → exec i s = .next { s with st := .val }
  full : ∀ s : State, s.dir = .build → c.inRange k s.x.x0 = true → s.cur.toNat + k ≤ s.lim.toNat →
    exec i s = .next { s with tx := s.tx.writeBytes s.cur.toNat (c.octets k s.x.x0),
                              cur := s.cur + BitVec.ofNat 32 k, st := .ok }
  short : ∀ s : State, s.dir = .build → c.inRange k s.x.x0 = true → s.lim.toNat < s.cur.toNat + k →
    exec i s = .next { s with st := .tooSmall }

theorem left_lt_of_short {s : State} {k : Nat} (hk : 0 < k) (h : s.lim.toNat < s.cur.toNat + k) : left s < k := by
  unfold left; omega

theorem readsInteger_of {i : Instr} {k : Nat} {c : Coding} {rd : State → Except Code (Word64 × State)}
    (hk : 0 < k ∧ k ≤ 8) (hi : ∀ s, exec i s = readInteger rd s)
    (hfull : ∀ s, k ≤ left s → rd s = .ok (c.value k (s.rx.readBytes s.cur.toNat k), advance k s))
    (hshort : ∀ s, left s < k → rd s = .error .tooSmall) : ReadsInteger i k c where
  bounds := hk
  refused s hd := (hi s).trans (whileParsing_refused hd)
  full s hd hl := (hi s).trans (readInteger_of hd (hfull s (Nat.le_sub_of_add_le' hl)))
  short s hd hl := (hi s).trans (readInteger_err hd (hshort s (left_lt_of_short hk.1 hl)))

theorem writesInteger_of {i : Instr} {k : Nat} {c : Coding} (hk : 0 < k)
    (hi : ∀ s, exec i s = writeInteger (c.inRange k) (fun v => wrBlock (c.octets k v)) s) : WritesInteger i k c where
  refused s hd := (hi s).trans (whileBuilding_refused hd)
  outOfRange s hd hr := (hi s).trans (writeInteger_val hd hr)
  full s hd hr hl := by
    have hleft : (c.octets k s.x.x0).length ≤ left s := by
      rw [Coding.octets_length]; exact Nat.le_sub_of_add_le' hl
    rw [hi, writeInteger_of hd hr (wrBlock_of_left hleft), Coding.octets_length]
  short s hd hr hl := by
    have hleft : left s < (c.octets k s.x.x0).length := by
      rw [Coding.octets_length]; exact left_lt_of_short hk hl
    rw [hi, writeInteger_err hd hr (wrBlock_of_short hleft)]

/-- Everything a read of one integer can do. -/
theorem ReadsInteger.next {i : Instr} {k : Nat} {c : Coding} (hr : ReadsInteger i k c) {s t : State}
    (h : exec i s = .next t) :
    t = { s with st := .tooSmall } ∨
    s.cur.toNat + k ≤ s.lim.toNat ∧
      t = { s with x := { s.x with x0 := c.value k (s.rx.readBytes s.cur.toNat k) },
                   cur := s.cur + BitVec.ofNat 32 k, st := .ok } := by
  by_cases hd : s.dir = .parse
  · rcases Nat.lt_or_ge s.lim.toNat (s.cur.toNat + k) with hl | hl
    · rw [hr.short s hd hl] at h; cases h; exact .inl rfl
    · rw [hr.full s hd hl] at h; cases h; exact .inr ⟨hl, rfl⟩
  · rw [hr.refused s hd] at h; cases h

/-- Everything a write of one integer can do. -/
theorem WritesInteger.next {i : Instr} {k : Nat} {c : Coding} (hw : WritesInteger i k c) {s t : State}
    (h : exec i s = .next t) :
    (∃ e, e ≠ .ok ∧ t = { s with st := e }) ∨
    c.inRange k s.x.x0 = true ∧ s.cur.toNat + k ≤ s.lim.toNat ∧
      t = { s with tx := s.tx.writeBytes s.cur.toNat (c.octets k s.x.x0), cur := s.cur + BitVec.ofNat 32 k,
                   st := .ok } := by
  by_cases hd : s.dir = .build
  · cases hr : c.inRange k s.x.x0 with
    | false => rw [hw.outOfRange s hd hr] at h; cases h; exact .inl ⟨.val, by decide, rfl⟩
    | true =>
      rcases Nat.lt_or_ge s.lim.toNat (s.cur.toNat + k) with hl | hl
      · rw [hw.short s hd hr hl] at h; cases h; exact .inl ⟨.tooSmall, by decide, rfl⟩
      · rw [hw.full s hd hr hl] at h; cases h; exact .inr ⟨rfl, hl, rfl⟩
  · rw [hw.refused s hd] at h; cases h

/-! ### The commands -/

/-- The octets and the coding of each read of one integer. -/
def readForm : Instr → Option (Nat × Coding)
  | .rdU8 => some (1, .unsigned)
  | .rdU16 => some (2, .unsigned)
  | .rdU32 => some (4, .unsigned)
  | .rdU48 => some (6, .unsigned)
  | .rdU64 => some (8, .unsigned)
  | .rdI8 => some (1, .signed)
  | .rdI16 => some (2, .signed)
  | .rdI32 => some (4, .signed)
  | .rdI48 => some (6, .signed)
  | .rdI64 => some (8, .signed)
  | .rdU64le => some (8, .little)
  | .rdClockid => some (8, .unsigned)
  | _ => none

/-- The octets and the coding of each write of one integer. -/
def writeForm : Instr → Option (Nat × Coding)
  | .wrU8 => some (1, .unsigned)
  | .wrU16 => some (2, .unsigned)
  | .wrU32 => some (4, .unsigned)
  | .wrU48 => some (6, .unsigned)
  | .wrU64 => some (8, .unsigned)
  | .wrI8 => some (1, .signed)
  | .wrI16 => some (2, .signed)
  | .wrI32 => some (4, .signed)
  | .wrI48 => some (6, .signed)
  | .wrI64 => some (8, .signed)
  | .wrU64le => some (8, .little)
  | .wrClockid => some (8, .unsigned)
  | _ => none

theorem readsInteger_of_readForm {i : Instr} {k : Nat} {c : Coding} (h : readForm i = some (k, c)) :
    ReadsInteger i k c := by
  cases i with
  | rdU8 | rdU16 | rdU32 | rdU48 | rdU64 =>
    cases h
    exact readsInteger_of (by decide) (fun _ => rfl) (fun _ h => rdBE_of_left h) (fun _ h => rdBE_of_short h)
  | rdI8 | rdI16 | rdI32 | rdI48 | rdI64 =>
    cases h
    exact readsInteger_of (by decide) (fun _ => rfl) (fun _ h => rdI_of_left h) (fun _ h => rdI_of_short h)
  | rdU64le =>
    cases h
    exact readsInteger_of (by decide) exec_rdU64le (fun _ h => rdLE64_of_left h) (fun _ h => rdLE64_of_short h)
  | rdClockid =>
    cases h
    exact readsInteger_of (by decide) exec_rdClockid (fun _ h => rdClockIdentity_of_left h)
      (fun _ h => rdClockIdentity_of_short h)
  | _ => cases h

theorem writesInteger_of_writeForm {i : Instr} {k : Nat} {c : Coding} (h : writeForm i = some (k, c)) :
    WritesInteger i k c := by
  cases i with
  | wrU8 | wrU16 | wrU32 | wrU48 | wrU64 | wrI8 | wrI16 | wrI32 | wrI48 | wrI64 | wrU64le | wrClockid =>
    cases h
    exact writesInteger_of (by decide) (fun _ => rfl)
  | _ => cases h

/-! ### The reads (R161 to R171, R194) -/

theorem readForm_of_unsignedReads :
    ∀ e ∈ unsignedReads, encode e.1 = e.2.2 ∧ readForm e.1 = some (e.2.1, .unsigned) := by
  simp only [unsignedReads, List.forall_mem_cons]
  exact ⟨⟨rfl, rfl⟩, ⟨rfl, rfl⟩, ⟨rfl, rfl⟩, ⟨rfl, rfl⟩, ⟨rfl, rfl⟩, ⟨rfl, rfl⟩, nofun⟩

theorem readForm_of_signedReads : ∀ e ∈ signedReads, encode e.1 = e.2.2 ∧ readForm e.1 = some (e.2.1, .signed) := by
  simp only [signedReads, List.forall_mem_cons]
  exact ⟨⟨rfl, rfl⟩, ⟨rfl, rfl⟩, ⟨rfl, rfl⟩, ⟨rfl, rfl⟩, ⟨rfl, rfl⟩, nofun⟩

theorem unsigned_value_readBytes (m : Memory) (a k : Nat) :
    Coding.unsigned.value k (m.readBytes a k) = BitVec.ofNat 64 (wireValue m a k) := by
  rw [Coding.value, beNat_readBytes]

theorem signed_value_readBytes (m : Memory) (a : Nat) {k : Nat} (hk : 0 < k ∧ k ≤ 8) :
    Coding.signed.value k (m.readBytes a k) = signedPattern (8 * k) (wireValue m a k) := by
  have hlt := wireValue_lt m a k
  rw [← two_pow_eight_mul] at hlt
  rw [Coding.value, beNat_readBytes, signedPattern, signExtended_eq _ _ (by omega) (by omega) hlt]

theorem little_value_readBytes (m : Memory) (a k : Nat) :
    Coding.little.value k (m.readBytes a k) = BitVec.ofNat 64 (wireValueLE m a k) := by
  rw [Coding.value, leNat_readBytes]

/-- Settles O13: `ReadsInteger` of the unsigned reads, with the sum of R14. -/
theorem unsignedReadsGiveTheBigEndianValue : Obligations.UnsignedReadsGiveTheBigEndianValue := by
  intro i k w h
  obtain ⟨hword, hform⟩ := readForm_of_unsignedReads _ h
  have hread := readsInteger_of_readForm hform
  refine ⟨decode_eq_ok_iff.mpr hword, hread.refused, fun s hd => ⟨fun hl => ?_, hread.short s hd⟩⟩
  rw [hread.full s hd hl, unsigned_value_readBytes]

/-- Settles O14: `ReadsInteger` of the signed reads, with the formula of R153. -/
theorem signedReadsSignExtend : Obligations.SignedReadsSignExtend := by
  intro i k w h
  obtain ⟨hword, hform⟩ := readForm_of_signedReads _ h
  have hread := readsInteger_of_readForm hform
  refine ⟨decode_eq_ok_iff.mpr hword, hread.refused, fun s hd => ⟨fun hl => ?_, hread.short s hd⟩⟩
  rw [hread.full s hd hl, signed_value_readBytes _ _ hread.bounds]

/-- Settles O15: `ReadsInteger` of RD_U64LE, with the little-endian sum of R14. -/
theorem littleEndianReadGivesTheLittleEndianValue : Obligations.LittleEndianReadGivesTheLittleEndianValue := by
  have hread : ReadsInteger .rdU64le 8 .little := readsInteger_of_readForm rfl
  refine ⟨decode_eq_ok_iff.mpr rfl, hread.refused, fun s hd => ⟨fun hl => ?_, hread.short s hd⟩⟩
  rw [hread.full s hd hl, little_value_readBytes]
  rfl

/-! ### The writes (R172 to R182, R195) -/

/-- A write whose value is in range, in the terms of the statements. -/
theorem WritesInteger.appends {i : Instr} {k : Nat} {c : Coding} (hw : WritesInteger i k c) {s : State}
    (hd : s.dir = .build) (hr : c.inRange k s.x.x0 = true) :
    (s.cur.toNat + k ≤ s.lim.toNat → ∃ m, Stores s.tx m s.cur.toNat (c.octets k s.x.x0) ∧
      exec i s = .next { s with tx := m, cur := s.cur + BitVec.ofNat 32 k, st := .ok }) ∧
    (s.lim.toNat < s.cur.toNat + k → exec i s = .next { s with st := .tooSmall }) :=
  ⟨fun hl => ⟨_, s.tx.stores_writeBytes _ _, hw.full s hd hr hl⟩, hw.short s hd hr⟩

theorem writeForm_of_uncheckedWrites :
    ∀ e ∈ uncheckedWrites, encode e.1 = e.2.2 ∧
      ∃ c, writeForm e.1 = some (e.2.1, c) ∧ c ≠ .little ∧ c.inRange e.2.1 = anyValue := by
  simp only [uncheckedWrites, List.forall_mem_cons]
  exact ⟨⟨rfl, _, rfl, nofun, rfl⟩, ⟨rfl, _, rfl, nofun, rfl⟩, ⟨rfl, _, rfl, nofun, rfl⟩, ⟨rfl, _, rfl, nofun, rfl⟩,
    ⟨rfl, _, rfl, nofun, rfl⟩, ⟨rfl, _, rfl, nofun, rfl⟩, ⟨rfl, _, rfl, nofun, rfl⟩, ⟨rfl, _, rfl, nofun, rfl⟩,
    ⟨rfl, _, rfl, nofun, rfl⟩, nofun⟩

/-- Settles O16: `WritesInteger` of the writes that take any value. -/
theorem uncheckedWritesAppendTheLowBits : Obligations.UncheckedWritesAppendTheLowBits := by
  intro i k w h
  obtain ⟨hword, c, hform, hc, hany⟩ := writeForm_of_uncheckedWrites _ h
  have hwrite := writesInteger_of_writeForm hform
  refine ⟨decode_eq_ok_iff.mpr hword, hwrite.refused, fun s hd => ?_⟩
  rw [← Coding.octets_eq_octetsBE hc]
  exact hwrite.appends hd (congrFun hany s.x.x0)

/-- Settles O17: `WritesInteger` of WR_U48, its range check first. -/
theorem wrU48ChecksTheRangeFirst : Obligations.WrU48ChecksTheRangeFirst := by
  have hwrite : WritesInteger .wrU48 6 .unsigned := writesInteger_of_writeForm rfl
  refine ⟨decode_eq_ok_iff.mpr rfl, hwrite.refused, fun s hd => ⟨fun hv => hwrite.outOfRange s hd ?_, fun hv => ?_⟩⟩
  · exact Bool.eq_false_iff.mpr fun hr => Nat.not_lt.mpr hv (fitsU48_iff.mp hr)
  · rw [← Coding.octets_eq_octetsBE (c := .unsigned) nofun]
    exact hwrite.appends hd (fitsU48_iff.mpr hv)

/-- Settles O18: `WritesInteger` of WR_I48, its range check first. -/
theorem wrI48ChecksTheRangeFirst : Obligations.WrI48ChecksTheRangeFirst := by
  have hwrite : WritesInteger .wrI48 6 .signed := writesInteger_of_writeForm rfl
  refine ⟨decode_eq_ok_iff.mpr rfl, hwrite.refused, fun s hd => ⟨fun hv => hwrite.outOfRange s hd ?_, fun hv => ?_⟩⟩
  · exact Bool.eq_false_iff.mpr fun hr => hv (fitsI48_iff.mp hr)
  · rw [← Coding.octets_eq_octetsBE (c := .signed) nofun]
    exact hwrite.appends hd (fitsI48_iff.mpr hv)

/-- Settles O19: `WritesInteger` of WR_U64LE. -/
theorem littleEndianWriteAppendsLeastSignificantFirst : Obligations.LittleEndianWriteAppendsLeastSignificantFirst := by
  have hwrite : WritesInteger .wrU64le 8 .little := writesInteger_of_writeForm rfl
  refine ⟨decode_eq_ok_iff.mpr rfl, hwrite.refused, fun s hd => ?_⟩
  rw [← bytesLE_eq_octetsLE]
  exact hwrite.appends hd rfl

/-! ### A failing primitive (R186) -/

theorem form_of_primitiveCommands :
    ∀ i ∈ primitiveCommands, (readForm i).isSome = true ∨ (writeForm i).isSome = true := by decide

/-- Settles O20: of what a read or a write of one integer can do, only success changes more than `ST`. -/
theorem failingPrimitivesChangeOnlyTheStatus : Obligations.FailingPrimitivesChangeOnlyTheStatus := by
  intro i hi s t h hst
  rcases form_of_primitiveCommands i hi with hform | hform
  · obtain ⟨⟨k, c⟩, hform⟩ := Option.isSome_iff_exists.mp hform
    rcases (readsInteger_of_readForm hform).next h with rfl | ⟨_, rfl⟩
    · rfl
    · exact absurd rfl hst
  · obtain ⟨⟨k, c⟩, hform⟩ := Option.isSome_iff_exists.mp hform
    rcases (writesInteger_of_writeForm hform).next h with ⟨e, _, rfl⟩ | ⟨_, _, rfl⟩
    · rfl
    · exact absurd rfl hst

/-! ### Write, then read (R184) -/

/-- After a write that returned OK, the read at the place written gives `f` of the value written. -/
def ReadsBack (w r : Instr) (f : Word64 → Word64) : Prop :=
  ∀ s t : State, exec w s = .next t → t.st = .ok →
    ∃ u, exec r { t with dir := .parse, cur := s.cur, rx := t.tx } = .next u ∧ u.st = .ok ∧ u.x.x0 = f s.x.x0

theorem readsBack_of {w r : Instr} {k : Nat} {c d : Coding} {f : Word64 → Word64} (hw : writeForm w = some (k, c))
    (hr : readForm r = some (k, d)) (hf : ∀ v, c.inRange k v = true → d.value k (c.octets k v) = f v) :
    ReadsBack w r f := by
  intro s t h hst
  rcases (writesInteger_of_writeForm hw).next h with ⟨e, he, rfl⟩ | ⟨hrange, hl, rfl⟩
  · exact absurd hst he
  · refine ⟨_, (readsInteger_of_readForm hr).full _ rfl hl, rfl, ?_⟩
    have hback := s.tx.readBytes_writeBytes s.cur.toNat (c.octets k s.x.x0)
    rw [Coding.octets_length] at hback
    show d.value k (Memory.readBytes _ _ k) = _
    rw [hback, hf _ hrange]

theorem readsBack_truncated {w r : Instr} (k : Nat) (c : Coding) (hw : writeForm w = some (k, c)) (hc : c ≠ .little)
    (hr : readForm r = some (k, .unsigned)) : ReadsBack w r (truncated (8 * k)) :=
  readsBack_of hw hr fun v _ => Coding.unsigned_value_octets hc k v

theorem readsBack_truncatedSigned {w r : Instr} (k : Nat) (c : Coding) (hw : writeForm w = some (k, c))
    (hc : c ≠ .little) (hr : readForm r = some (k, .signed)) : ReadsBack w r (truncatedSigned (8 * k)) :=
  readsBack_of hw hr fun v _ => Coding.signed_value_octets hc k v

theorem readsBack_u64 {w : Instr} (c : Coding) (hw : writeForm w = some (8, c)) (hc : c ≠ .little) :
    ReadsBack w .rdU64 id := truncated_64 ▸ readsBack_truncated 8 c hw hc rfl

theorem readsBack_i64 {w : Instr} (c : Coding) (hw : writeForm w = some (8, c)) (hc : c ≠ .little) :
    ReadsBack w .rdI64 id := truncatedSigned_64 ▸ readsBack_truncatedSigned 8 c hw hc rfl

theorem readsBack_u48 : ReadsBack .wrU48 .rdU48 id :=
  readsBack_of (k := 6) (c := .unsigned) (d := .unsigned) rfl rfl fun v hv =>
    (Coding.unsigned_value_octets (c := .unsigned) nofun 6 v).trans (truncated_of_fitsU48 hv)

theorem readsBack_i48 : ReadsBack .wrI48 .rdI48 id :=
  readsBack_of (k := 6) (c := .signed) (d := .signed) rfl rfl fun v hv =>
    (Coding.signed_value_octets (c := .signed) nofun 6 v).trans (truncatedSigned_of_fitsI48 hv)

theorem readsBack_u64le : ReadsBack .wrU64le .rdU64le id :=
  readsBack_of rfl rfl fun v _ => Coding.little_value_octets v

theorem readsBack_of_writeReadPairs : ∀ p ∈ writeReadPairs, ReadsBack p.1 p.2.1 p.2.2 := by
  simp only [writeReadPairs, List.forall_mem_cons]
  exact
    ⟨readsBack_truncated 1 .unsigned rfl nofun rfl, readsBack_truncatedSigned 1 .unsigned rfl nofun rfl,
      readsBack_truncated 1 .signed rfl nofun rfl, readsBack_truncatedSigned 1 .signed rfl nofun rfl,
      readsBack_truncated 2 .unsigned rfl nofun rfl, readsBack_truncatedSigned 2 .unsigned rfl nofun rfl,
      readsBack_truncated 2 .signed rfl nofun rfl, readsBack_truncatedSigned 2 .signed rfl nofun rfl,
      readsBack_truncated 4 .unsigned rfl nofun rfl, readsBack_truncatedSigned 4 .unsigned rfl nofun rfl,
      readsBack_truncated 4 .signed rfl nofun rfl, readsBack_truncatedSigned 4 .signed rfl nofun rfl,
      readsBack_u64 .unsigned rfl nofun, readsBack_i64 .unsigned rfl nofun,
      readsBack_u64 .signed rfl nofun, readsBack_i64 .signed rfl nofun,
      readsBack_u48, readsBack_i48, readsBack_u64le, nofun⟩

/-- Settles O21: each pair by its width and the read's coding. -/
theorem writeThenReadGivesTheValueBack : Obligations.WriteThenReadGivesTheValueBack :=
  fun w r f h => readsBack_of_writeReadPairs (w, r, f) h

/-! ### Read, then write (R185) -/

/-- A read and a write of one width and one coding: the value read is in range, and its octets are those read. -/
theorem reproduces_of {r w : Instr} {k : Nat} {c : Coding} (hr : readForm r = some (k, c))
    (hw : writeForm w = some (k, c)) : Reproduces r w k := by
  intro s t h hst
  have hread := readsInteger_of_readForm hr
  rcases hread.next h with rfl | ⟨hl, rfl⟩
  · cases hst
  have hlen := s.rx.readBytes_length s.cur.toNat k
  refine ⟨_, (writesInteger_of_writeForm hw).full _ rfl (c.inRange_value hlen) hl, rfl, fun j hj => ?_⟩
  show (Memory.writeBytes s.tx s.cur.toNat (c.octets k (c.value k _))).read _ = _
  rw [c.octets_value hlen hread.bounds.2]
  have hj' : j < (s.rx.readBytes s.cur.toNat k).length := hlen.symm ▸ hj
  rw [(s.tx.stores_writeBytes s.cur.toNat _).1 j hj', Memory.readBytes_getElem]

theorem form_of_readWritePairs :
    ∀ p ∈ readWritePairs, ∃ c, readForm p.1 = some (p.2.2, c) ∧ writeForm p.2.1 = some (p.2.2, c) := by
  simp only [readWritePairs, List.forall_mem_cons]
  exact ⟨⟨_, rfl, rfl⟩, ⟨_, rfl, rfl⟩, ⟨_, rfl, rfl⟩, ⟨_, rfl, rfl⟩, ⟨_, rfl, rfl⟩, ⟨_, rfl, rfl⟩, ⟨_, rfl, rfl⟩,
    ⟨_, rfl, rfl⟩, ⟨_, rfl, rfl⟩, ⟨_, rfl, rfl⟩, ⟨_, rfl, rfl⟩, nofun⟩

/-- Settles O22: the read and the write of each pair have one width and one coding. -/
theorem readThenWriteReproducesTheOctets : Obligations.ReadThenWriteReproducesTheOctets := by
  intro r w k h
  obtain ⟨c, hr, hw⟩ := form_of_readWritePairs _ h
  exact reproduces_of hr hw

end Sys2Proof.Machine
end

section
/-! The compound commands: what a read and a write of two big-endian fields do, said once, and that the commands of
41_compound_codec.md R192, R193, R196, R197 are such reads and writes; the round trips of R198. -/

namespace Sys2Proof.Machine

/-! ### Reading two fields -/

/-- The primitive reads a big-endian field of `k` octets. -/
structure ReadsField (rd : State → Except Code (Word64 × State)) (k : Nat) : Prop where
  full : ∀ s : State, s.cur.toNat + k ≤ s.lim.toNat →
    rd s = .ok (Coding.unsigned.value k (s.rx.readBytes s.cur.toNat k), advance k s)
  short : ∀ s : State, s.lim.toNat < s.cur.toNat + k → rd s = .error .tooSmall

theorem readsField_rdBE {n : Nat} (hn : 0 < n / 8) : ReadsField (rdBE n) (n / 8) where
  full _ h := rdBE_of_left (Nat.le_sub_of_add_le' h)
  short _ h := rdBE_of_short (left_lt_of_short hn h)

theorem readsField_rdClockIdentity : ReadsField rdClockIdentity 8 where
  full _ h := rdClockIdentity_of_left (Nat.le_sub_of_add_le' h)
  short _ h := rdClockIdentity_of_short (left_lt_of_short (by decide) h)

/-- The command reads a field of `a` octets, then one of `b` octets. Where the first alone fits, the cursor passes it and
the general registers stay. -/
structure ReadsPair (i : Instr) (a b : Nat) : Prop where
  bounds : a ≤ 8 ∧ b ≤ 8
  refused : ∀ s : State, s.dir ≠ .parse → exec i s = .refused .wrongDirection
  full : ∀ s : State, s.dir = .parse → s.cur.toNat + (a + b) ≤ s.lim.toNat →
    exec i s = .next { s with
      x := { s.x with x0 := Coding.unsigned.value a (s.rx.readBytes s.cur.toNat a),
                      x1 := Coding.unsigned.value b (s.rx.readBytes (s.cur.toNat + a) b) },
      cur := s.cur + BitVec.ofNat 32 (a + b), st := .ok }
  half : ∀ s : State, s.dir = .parse → s.cur.toNat + a ≤ s.lim.toNat → s.lim.toNat < s.cur.toNat + (a + b) →
    exec i s = .next { s with cur := s.cur + BitVec.ofNat 32 a, st := .tooSmall }
  short : ∀ s : State, s.dir = .parse → s.lim.toNat < s.cur.toNat + a → exec i s = .next { s with st := .tooSmall }

theorem readsPair_of {i : Instr} {a b : Nat} {rd₀ rd₁ : State → Except Code (Word64 × State)} (hab : a ≤ 8 ∧ b ≤ 8)
    (hi : ∀ s, exec i s = readPair rd₀ rd₁ s) (h₀ : ReadsField rd₀ a) (h₁ : ReadsField rd₁ b) : ReadsPair i a b where
  bounds := hab
  refused s hd := (hi s).trans (whileParsing_refused hd)
  full s hd hl := by
    have hfit : s.cur.toNat + a ≤ s.lim.toNat := by omega
    have hcur : (advance a s).cur.toNat = s.cur.toNat + a := toNat_advance_of_fits hfit
    have hsnd := h₁.full (advance a s) (by rw [hcur, advance_lim]; omega)
    rw [hi, readPair_of hd (h₀.full s hfit) hsnd, hcur, advance_rx, BitVec.add_assoc, ← BitVec.ofNat_add]
  half s hd hfit hl := by
    have hcur : (advance a s).cur.toNat = s.cur.toNat + a := toNat_advance_of_fits hfit
    have hsnd := h₁.short (advance a s) (by rw [hcur, advance_lim]; omega)
    rw [hi, readPair_err1 hd (h₀.full s hfit) hsnd]
  short s hd hl := (hi s).trans (readPair_err0 hd (h₀.short s hl))

/-- A read of two fields that returned OK. -/
theorem ReadsPair.next_ok {i : Instr} {a b : Nat} (hr : ReadsPair i a b) {s t : State} (h : exec i s = .next t)
    (hst : t.st = .ok) :
    s.cur.toNat + (a + b) ≤ s.lim.toNat ∧
      t = { s with
        x := { s.x with x0 := Coding.unsigned.value a (s.rx.readBytes s.cur.toNat a),
                        x1 := Coding.unsigned.value b (s.rx.readBytes (s.cur.toNat + a) b) },
        cur := s.cur + BitVec.ofNat 32 (a + b), st := .ok } := by
  by_cases hd : s.dir = .parse
  · rcases Nat.lt_or_ge s.lim.toNat (s.cur.toNat + (a + b)) with hl | hl
    · rcases Nat.lt_or_ge s.lim.toNat (s.cur.toNat + a) with hfit | hfit
      · rw [hr.short s hd hfit] at h; cases h; cases hst
      · rw [hr.half s hd hfit hl] at h; cases h; cases hst
    · rw [hr.full s hd hl] at h; cases h; exact ⟨hl, rfl⟩
  · rw [hr.refused s hd] at h; cases h

theorem readsPair_rdTimestamp : ReadsPair .rdTimestamp 6 4 :=
  readsPair_of (by decide) exec_rdTimestamp (readsField_rdBE (n := 48) (by decide)) (readsField_rdBE (n := 32) (by decide))

theorem readsPair_rdPortid : ReadsPair .rdPortid 8 2 :=
  readsPair_of (by decide) exec_rdPortid readsField_rdClockIdentity (readsField_rdBE (n := 16) (by decide))

/-- A read of two fields in a window that holds both, with the sums of R14. -/
theorem ReadsPair.full_wireValue {i : Instr} {a b : Nat} (hr : ReadsPair i a b) {s : State} (hd : s.dir = .parse)
    (hl : s.cur.toNat + (a + b) ≤ s.lim.toNat) :
    exec i s = .next { s with
      x := { s.x with x0 := BitVec.ofNat 64 (wireValue s.rx s.cur.toNat a),
                      x1 := BitVec.ofNat 64 (wireValue s.rx (s.cur.toNat + a) b) },
      cur := s.cur + BitVec.ofNat 32 (a + b), st := .ok } := by
  rw [hr.full s hd hl, unsigned_value_readBytes, unsigned_value_readBytes]

/-- Settles O23: `ReadsPair` of RD_TIMESTAMP, 6 octets and 4. -/
theorem rdTimestampReadsSecondsThenNanoseconds : Obligations.RdTimestampReadsSecondsThenNanoseconds :=
  have hread := readsPair_rdTimestamp
  ⟨decode_eq_ok_iff.mpr rfl, hread.refused, fun s hd => ⟨hread.full_wireValue hd, hread.half s hd, hread.short s hd⟩⟩

/-- Settles O25: `ReadsPair` of RD_PORTID, 8 octets and 2. -/
theorem rdPortidReadsClockIdentityThenPort : Obligations.RdPortidReadsClockIdentityThenPort :=
  have hread := readsPair_rdPortid
  ⟨decode_eq_ok_iff.mpr rfl, hread.refused, fun s hd => ⟨hread.full_wireValue hd, hread.half s hd, hread.short s hd⟩⟩

/-! ### Writing two fields -/

/-- The octets of `x[0]` and `x[1]` as big-endian fields of `a` and `b` octets. -/
def pairOctets (a b : Nat) (x : XRegs) : List Octet := Coding.unsigned.octets a x.x0 ++ Coding.unsigned.octets b x.x1

@[simp] theorem pairOctets_length (a b : Nat) (x : XRegs) : (pairOctets a b x).length = a + b := by
  rw [pairOctets, List.length_append, Coding.octets_length, Coding.octets_length]

theorem pairOctets_eq_octetsBE (a b : Nat) (x : XRegs) :
    pairOctets a b x = octetsBE a x.x0.toNat ++ octetsBE b x.x1.toNat :=
  congrArg₂ (· ++ ·) (bytesBE_eq_octetsBE a x.x0) (bytesBE_eq_octetsBE b x.x1)

/-- The command writes `x[0]` as `a` octets, after the range check the width has, then `x[1]` as `b` octets. Where the
first alone fits, its octets stay written. -/
structure WritesPair (i : Instr) (a b : Nat) : Prop where
  refused : ∀ s : State, s.dir ≠ .build → exec i s = .refused .wrongDirection
  outOfRange : ∀ s : State, s.dir = .build → Coding.unsigned.inRange a s.x.x0 = false →
    exec i s = .next { s with st := .val }
  full : ∀ s : State, s.dir = .build → Coding.unsigned.inRange a s.x.x0 = true →
    s.cur.toNat + (a + b) ≤ s.lim.toNat →
    exec i s = .next { s with tx := s.tx.writeBytes s.cur.toNat (pairOctets a b s.x),
                              cur := s.cur + BitVec.ofNat 32 (a + b), st := .ok }
  half : ∀ s : State, s.dir = .build → Coding.unsigned.inRange a s.x.x0 = true → s.cur.toNat + a ≤ s.lim.toNat →
    s.lim.toNat < s.cur.toNat + (a + b) →
    exec i s = .next { s with tx := s.tx.writeBytes s.cur.toNat (Coding.unsigned.octets a s.x.x0),
                              cur := s.cur + BitVec.ofNat 32 a, st := .tooSmall }
  short : ∀ s : State, s.dir = .build → Coding.unsigned.inRange a s.x.x0 = true → s.lim.toNat < s.cur.toNat + a →
    exec i s = .next { s with st := .tooSmall }

theorem wrBlock_octets_of_fits {c : Coding} {k : Nat} (v : Word64) {s : State} (h : s.cur.toNat + k ≤ s.lim.toNat) :
    wrBlock (c.octets k v) s = .ok (appended (c.octets k v) s) :=
  wrBlock_of_left (by rw [Coding.octets_length]; exact Nat.le_sub_of_add_le' h)

theorem wrBlock_octets_of_short {c : Coding} {k : Nat} (hk : 0 < k) (v : Word64) {s : State}
    (h : s.lim.toNat < s.cur.toNat + k) : wrBlock (c.octets k v) s = .error .tooSmall :=
  wrBlock_of_short (by rw [Coding.octets_length]; exact left_lt_of_short hk h)

theorem appended_octets_cur {c : Coding} {k : Nat} (v : Word64) {s : State} (h : s.cur.toNat + k ≤ s.lim.toNat) :
    (appended (c.octets k v) s).cur.toNat = s.cur.toNat + k := by
  rw [appended_cur_toNat (by rwa [Coding.octets_length]), Coding.octets_length]

/-- Ending a command after an append, with the append's updates written out. -/
theorem complete_appended {e : Code} {o : List Octet} {k : Nat} (ho : o.length = k) (s : State) :
    complete e (appended o s) = .next { s with tx := s.tx.writeBytes s.cur.toNat o,
                                               cur := s.cur + BitVec.ofNat 32 k, st := e } := by
  subst ho; rfl

section
variable {p : Word64 → Bool} {w₀ w₁ : Word64 → State → Except Code State} {s t u : State} {e : Code}

theorem writePair_of (hd : s.dir = .build) (hp : p s.x.x0 = true) (h₀ : w₀ s.x.x0 s = .ok t)
    (h₁ : w₁ s.x.x1 t = .ok u) : writePair p w₀ w₁ s = complete .ok u := by
  rw [writePair_body hd hp, h₀]; simp only [h₁]

theorem writePair_err0 (hd : s.dir = .build) (hp : p s.x.x0 = true) (h₀ : w₀ s.x.x0 s = .error e) :
    writePair p w₀ w₁ s = complete e s := by
  rw [writePair_body hd hp, h₀]

theorem writePair_err1 (hd : s.dir = .build) (hp : p s.x.x0 = true) (h₀ : w₀ s.x.x0 s = .ok t)
    (h₁ : w₁ s.x.x1 t = .error e) : writePair p w₀ w₁ s = complete e t := by
  rw [writePair_body hd hp, h₀]; simp only [h₁]

end

theorem writesPair_of {i : Instr} {a b : Nat} (hpos : 0 < a ∧ 0 < b)
    (hi : ∀ s, exec i s = writePair (Coding.unsigned.inRange a) (fun v => wrBlock (Coding.unsigned.octets a v))
      (fun v => wrBlock (Coding.unsigned.octets b v)) s) : WritesPair i a b where
  refused s hd := (hi s).trans (whileBuilding_refused hd)
  outOfRange s hd hr := (hi s).trans (writePair_val hd hr)
  full s hd hr hl := by
    have hfit : s.cur.toNat + a ≤ s.lim.toNat := by omega
    have hsnd := wrBlock_octets_of_fits (c := .unsigned) (k := b) s.x.x1
      (s := appended (Coding.unsigned.octets a s.x.x0) s)
      (by rw [appended_octets_cur _ hfit, appended_lim]; omega)
    rw [hi, writePair_of hd hr (wrBlock_octets_of_fits _ hfit) hsnd, appended_appended (by rwa [Coding.octets_length])]
    exact complete_appended (pairOctets_length a b s.x) s
  half s hd hr hfit hl := by
    have hsnd := wrBlock_octets_of_short (c := .unsigned) hpos.2 s.x.x1
      (s := appended (Coding.unsigned.octets a s.x.x0) s)
      (by rw [appended_octets_cur _ hfit, appended_lim]; omega)
    rw [hi, writePair_err1 hd hr (wrBlock_octets_of_fits _ hfit) hsnd]
    exact complete_appended (Coding.octets_length ..) s
  short s hd hr hl := (hi s).trans (writePair_err0 hd hr (wrBlock_octets_of_short hpos.1 _ hl))

/-- A write of two fields that returned OK. -/
theorem WritesPair.next_ok {i : Instr} {a b : Nat} (hw : WritesPair i a b) {s t : State} (h : exec i s = .next t)
    (hst : t.st = .ok) :
    Coding.unsigned.inRange a s.x.x0 = true ∧ s.cur.toNat + (a + b) ≤ s.lim.toNat ∧
      t = { s with tx := s.tx.writeBytes s.cur.toNat (pairOctets a b s.x), cur := s.cur + BitVec.ofNat 32 (a + b),
                   st := .ok } := by
  by_cases hd : s.dir = .build
  · cases hr : Coding.unsigned.inRange a s.x.x0 with
    | false => rw [hw.outOfRange s hd hr] at h; cases h; cases hst
    | true =>
      rcases Nat.lt_or_ge s.lim.toNat (s.cur.toNat + (a + b)) with hl | hl
      · rcases Nat.lt_or_ge s.lim.toNat (s.cur.toNat + a) with hfit | hfit
        · rw [hw.short s hd hr hfit] at h; cases h; cases hst
        · rw [hw.half s hd hr hfit hl] at h; cases h; cases hst
      · rw [hw.full s hd hr hl] at h; cases h; exact ⟨rfl, hl, rfl⟩
  · rw [hw.refused s hd] at h; cases h

theorem writesPair_wrTimestamp : WritesPair .wrTimestamp 6 4 := writesPair_of (by decide) exec_wrTimestamp

theorem writesPair_wrPortid : WritesPair .wrPortid 8 2 := writesPair_of (by decide) exec_wrPortid

/-- A write of two fields whose first value is in range, in the terms of the statements. -/
theorem WritesPair.appends {i : Instr} {a b : Nat} (hw : WritesPair i a b) {s : State} (hd : s.dir = .build)
    (hr : Coding.unsigned.inRange a s.x.x0 = true) :
    (s.cur.toNat + (a + b) ≤ s.lim.toNat →
      ∃ m, Stores s.tx m s.cur.toNat (octetsBE a s.x.x0.toNat ++ octetsBE b s.x.x1.toNat) ∧
        exec i s = .next { s with tx := m, cur := s.cur + BitVec.ofNat 32 (a + b), st := .ok }) ∧
    (s.cur.toNat + a ≤ s.lim.toNat → s.lim.toNat < s.cur.toNat + (a + b) →
      ∃ m, Stores s.tx m s.cur.toNat (octetsBE a s.x.x0.toNat) ∧
        exec i s = .next { s with tx := m, cur := s.cur + BitVec.ofNat 32 a, st := .tooSmall }) ∧
    (s.lim.toNat < s.cur.toNat + a → exec i s = .next { s with st := .tooSmall }) := by
  rw [← pairOctets_eq_octetsBE, ← Coding.octets_eq_octetsBE (c := .unsigned) nofun]
  exact ⟨fun hl => ⟨_, s.tx.stores_writeBytes _ _, hw.full s hd hr hl⟩,
    fun hfit hl => ⟨_, s.tx.stores_writeBytes _ _, hw.half s hd hr hfit hl⟩, hw.short s hd hr⟩

/-- Settles O24: `WritesPair` of WR_TIMESTAMP, 6 octets and 4, the range check of 48 bits first. -/
theorem wrTimestampWritesSecondsThenNanoseconds : Obligations.WrTimestampWritesSecondsThenNanoseconds := by
  have hwrite := writesPair_wrTimestamp
  refine ⟨decode_eq_ok_iff.mpr rfl, hwrite.refused, fun s hd => ⟨fun hv => hwrite.outOfRange s hd ?_, fun hv => ?_⟩⟩
  · exact Bool.eq_false_iff.mpr fun hr => Nat.not_lt.mpr hv (fitsU48_iff.mp hr)
  · exact hwrite.appends hd (fitsU48_iff.mpr hv)

/-- Settles O26: `WritesPair` of WR_PORTID, 8 octets and 2; the width of 64 bits has no range check. -/
theorem wrPortidWritesClockIdentityThenPort : Obligations.WrPortidWritesClockIdentityThenPort :=
  ⟨decode_eq_ok_iff.mpr rfl, writesPair_wrPortid.refused, fun _ hd => writesPair_wrPortid.appends hd rfl⟩

/-! ### Write, then read (R198) -/

theorem Memory.readBytes_add (m : Memory) (p a b : Nat) :
    m.readBytes p (a + b) = m.readBytes p a ++ m.readBytes (p + a) b := by
  rw [Memory.readBytes_eq_map, Memory.readBytes_eq_map, Memory.readBytes_eq_map, List.range_add, List.map_append,
    List.map_map]
  simp only [Function.comp_def, Nat.add_assoc]

/-- Two fields written one after the other are each read back. -/
theorem Memory.readBytes_writeBytes_append (m : Memory) (p : Nat) (o q : List Octet) :
    (m.writeBytes p (o ++ q)).readBytes p o.length = o ∧
      (m.writeBytes p (o ++ q)).readBytes (p + o.length) q.length = q := by
  have hall := m.readBytes_writeBytes p (o ++ q)
  rw [List.length_append, Memory.readBytes_add] at hall
  exact List.append_inj hall (Memory.readBytes_length ..)

/-- After a write of two fields that returned OK, the read at the place written gives the first value, all of which its
octets hold, and the second cut to its octets. -/
theorem readsBack_pair {w r : Instr} {a b : Nat} (hw : WritesPair w a b) (hr : ReadsPair r a b)
    (hx : ∀ v, Coding.unsigned.inRange a v = true → truncated (8 * a) v = v) {s t : State}
    (h : exec w s = .next t) (hst : t.st = .ok) :
    ∃ u, exec r { t with dir := .parse, cur := s.cur, rx := t.tx } = .next u ∧ u.st = .ok ∧
      u.x.x0 = s.x.x0 ∧ u.x.x1 = truncated (8 * b) s.x.x1 := by
  obtain ⟨hrange, hl, rfl⟩ := hw.next_ok h hst
  obtain ⟨hfst, hsnd⟩ := s.tx.readBytes_writeBytes_append s.cur.toNat (Coding.unsigned.octets a s.x.x0)
    (Coding.unsigned.octets b s.x.x1)
  rw [Coding.octets_length] at hfst hsnd
  rw [Coding.octets_length] at hsnd
  refine ⟨_, hr.full _ rfl hl, rfl, ?_, ?_⟩
  · show Coding.unsigned.value a (Memory.readBytes (Memory.writeBytes _ _ (_ ++ _)) _ a) = _
    rw [hfst, Coding.unsigned_value_octets (c := .unsigned) nofun, hx _ hrange]
  · show Coding.unsigned.value b (Memory.readBytes (Memory.writeBytes _ _ (_ ++ _)) _ b) = _
    rw [hsnd, Coding.unsigned_value_octets (c := .unsigned) nofun]

theorem readsBack_clockid : ReadsBack .wrClockid .rdClockid id :=
  truncated_64 ▸ readsBack_truncated 8 .unsigned rfl nofun rfl

/-! ### Read, then write (R198) -/

theorem pairOctets_value {a b : Nat} {o q : List Octet} (ho : o.length = a) (hq : q.length = b) (ha : a ≤ 8)
    (hb : b ≤ 8) {x : XRegs} (hx₀ : x.x0 = Coding.unsigned.value a o) (hx₁ : x.x1 = Coding.unsigned.value b q) :
    pairOctets a b x = o ++ q := by
  rw [pairOctets, hx₀, hx₁, Coding.octets_value _ ho ha, Coding.octets_value _ hq hb]

theorem reproduces_pair {r w : Instr} {a b : Nat} (hr : ReadsPair r a b) (hw : WritesPair w a b) :
    Reproduces r w (a + b) := by
  intro s t h hst
  obtain ⟨hl, rfl⟩ := hr.next_ok h hst
  have hlen := s.rx.readBytes_length
  refine ⟨_, hw.full _ rfl (Coding.unsigned.inRange_value (hlen _ a)) hl, rfl, fun j hj => ?_⟩
  show (Memory.writeBytes s.tx s.cur.toNat (pairOctets a b _)).read _ = _
  rw [pairOctets_value (hlen _ a) (hlen _ b) hr.bounds.1 hr.bounds.2 rfl rfl, ← Memory.readBytes_add]
  have hj' : j < (s.rx.readBytes s.cur.toNat (a + b)).length := (hlen _ _).symm ▸ hj
  rw [(s.tx.stores_writeBytes s.cur.toNat _).1 j hj', Memory.readBytes_getElem]

/-- Settles O27: the two compound types of two fields by their widths, the clock identity as one field of 8 octets. -/
theorem compoundRoundTripsKeepEveryField : Obligations.CompoundRoundTripsKeepEveryField := by
  refine ⟨fun w r n hmem s t h hst => ?_, readsBack_clockid, reproduces_pair readsPair_rdTimestamp writesPair_wrTimestamp,
    reproduces_pair readsPair_rdPortid writesPair_wrPortid, reproduces_of rfl rfl⟩
  simp only [List.mem_cons, Prod.mk.injEq, List.not_mem_nil, or_false] at hmem
  obtain ⟨rfl, rfl, rfl⟩ | ⟨rfl, rfl, rfl⟩ := hmem
  · exact readsBack_pair writesPair_wrTimestamp readsPair_rdTimestamp (fun _ => truncated_of_fitsU48) h hst
  · exact readsBack_pair writesPair_wrPortid readsPair_rdPortid (fun v _ => congrFun truncated_64 v) h hst

end Sys2Proof.Machine
end

section
/-! The system commands, and the registry predicates in the words of R201 to R203 (42_frame_engine.md R201 to R213,
R253). -/

namespace Sys2Proof.Machine

/-! ### UPDATE_PARAMS (R210) -/

theorem paramsInRange_iff {s : State} : paramsInRange s = true ↔ s.x.x0.toNat ≤ 255 ∧ s.x.x1.toNat ≤ 255 := by
  rw [paramsInRange, Bool.and_eq_true, decide_eq_true_iff, decide_eq_true_iff]
  rfl

/-- The operands as the values R210 gives: each field the low bits of its register, `P_TS` four bits of `x[2]`. -/
theorem paramOperands_eq (s : State) :
    paramOperands s =
      { domain := BitVec.ofNat 8 s.x.x0.toNat, hops := BitVec.ofNat 8 s.x.x1.toNat,
        unicast := s.x.x2.getLsbD 0, linuxptp := s.x.x2.getLsbD 1, responder := s.x.x2.getLsbD 2,
        ts := BitVec.ofNat 4 (s.x.x2.toNat / 16),
        selfId := ⟨s.x.x3, BitVec.ofNat 16 s.x.x4.toNat⟩, target := ⟨s.x.x5, BitVec.ofNat 16 s.x.x6.toNat⟩ } := by
  have hts : s.x.x2.extractLsb' 4 4 = BitVec.ofNat 4 (s.x.x2.toNat / 16) := by
    rw [BitVec.extractLsb', Nat.shiftRight_eq_div_pow]
  simp only [BitVec.ofNat_toNat, ← hts]
  rfl

/-- Settles O28: the two cases of `paramsInRange`. -/
theorem updateParamsReplacesAllOrNone : Obligations.UpdateParamsReplacesAllOrNone := by
  refine ⟨decode_eq_ok_iff.mpr rfl, fun s => ⟨fun h => ?_, fun h => ?_⟩⟩
  · rw [exec_updateParams, if_neg (mt paramsInRange_iff.mp (by omega)), completeBool_eq]
    rfl
  · rw [exec_updateParams, if_pos (paramsInRange_iff.mpr h), completeBool_eq, paramOperands_eq]
    rfl

/-! ### SET_ALL_PORTS and IS_ALL_PORTS (R211, R212) -/

theorem allPorts_eq : allPorts = ⟨BitVec.allOnes 64, BitVec.allOnes 16⟩ := rfl

theorem boolWord_beq_allPorts (p : PortIdentity) :
    boolWord (p == allPorts) = if p.cid = BitVec.allOnes 64 ∧ p.port = BitVec.allOnes 16 then 1 else 0 := by
  obtain ⟨cid, port⟩ := p
  simp only [boolWord, allPorts_eq, beq_iff_eq, PortIdentity.mk.injEq]

/-- Settles O29: the frame of R40, and `P_TARGET` written. -/
theorem setAllPortsTargetsAllPorts : Obligations.SetAllPortsTargetsAllPorts := by
  refine ⟨decode_eq_ok_iff.mpr rfl, fun s => ?_⟩
  rw [exec_setAllPorts]
  exact ⟨withParameters_of_pv, withParameters_refused⟩

/-- Settles O30: the frame of R40, and the target compared half by half. -/
theorem isAllPortsNeedsBothHalves : Obligations.IsAllPortsNeedsBothHalves := by
  refine ⟨decode_eq_ok_iff.mpr rfl, fun s => ?_⟩
  rw [exec_isAllPorts]
  refine ⟨fun hp => ?_, withParameters_refused⟩
  rw [withParameters_of_pv hp, completeBool_eq, boolWord_beq_allPorts]

/-! ### The registry predicates (R201 to R203) -/

/-- The actions of R138, and the values that are none. -/
theorem action_cases (act : BitVec 4) : act = 0#4 ∨ act = 1#4 ∨ act = 2#4 ∨ act = 3#4 ∨ act = 4#4 ∨ 4 < act.toNat := by
  revert act; decide

theorem ne_of_action_gt {act : BitVec 4} (h : 4 < act.toNat) :
    act ≠ 0#4 ∧ act ≠ 1#4 ∧ act ≠ 2#4 ∧ act ≠ 3#4 ∧ act ≠ 4#4 := by
  revert act; decide

@[simp] theorem allowedAction_get (row : Row) : allowedAction row 0#4 = row.allowGet := rfl
@[simp] theorem allowedAction_set (row : Row) : allowedAction row 1#4 = row.allowSet := rfl
@[simp] theorem allowedAction_response (row : Row) : allowedAction row 2#4 = (row.allowGet || row.allowSet) := rfl
@[simp] theorem allowedAction_command (row : Row) : allowedAction row 3#4 = row.allowCommand := rfl
@[simp] theorem allowedAction_acknowledge (row : Row) : allowedAction row 4#4 = row.allowCommand := rfl

theorem allowedAction_of_gt (row : Row) {act : BitVec 4} (h : 4 < act.toNat) : allowedAction row act = false := by
  obtain ⟨h0, h1, h2, h3, h4⟩ := ne_of_action_gt h
  simp [allowedAction, actGet, actSet, actResponse, actCommand, actAcknowledge, h0, h1, h2, h3, h4]

@[simp] theorem checkReplyAction_get (c : Impl) (par : ParamRegs) :
    checkReplyAction c par 0#4 = (par.responder && c.acceptGetAsResponder) := rfl
@[simp] theorem checkReplyAction_set (c : Impl) (par : ParamRegs) : checkReplyAction c par 1#4 = par.responder := rfl
@[simp] theorem checkReplyAction_response (c : Impl) (par : ParamRegs) : checkReplyAction c par 2#4 = true := rfl
@[simp] theorem checkReplyAction_command (c : Impl) (par : ParamRegs) :
    checkReplyAction c par 3#4 = par.responder := rfl
@[simp] theorem checkReplyAction_acknowledge (c : Impl) (par : ParamRegs) : checkReplyAction c par 4#4 = true := rfl

theorem checkReplyAction_of_gt (c : Impl) (par : ParamRegs) {act : BitVec 4} (h : 4 < act.toNat) :
    checkReplyAction c par act = false := by
  obtain ⟨h0, h1, h2, h3, h4⟩ := ne_of_action_gt h
  simp [checkReplyAction, actGet, actSet, actResponse, actCommand, actAcknowledge, h0, h1, h2, h3, h4]

theorem toNat_le_of_matrixAllows {row : Row} {act : BitVec 4} (h : MatrixAllows row act) : act.toNat ≤ 4 := by
  rcases h with ⟨rfl, -⟩ | ⟨rfl, -⟩ | ⟨rfl, -⟩ | ⟨rfl, -⟩ | ⟨rfl, -⟩ <;> decide

theorem toNat_le_of_roleAccepts {c : Impl} {par : ParamRegs} {act : BitVec 4} (h : RoleAccepts c par act) :
    act.toNat ≤ 4 := by
  rcases h with rfl | rfl | ⟨-, rfl | rfl | ⟨rfl, -⟩⟩ <;> decide

/-- Settles O33, action by action. -/
theorem actionMatrixMirrorsTheRequest : Obligations.ActionMatrixMirrorsTheRequest := by
  intro row act
  rcases action_cases act with rfl | rfl | rfl | rfl | rfl | hgt
  · simp [MatrixAllows]
  · simp [MatrixAllows]
  · simp [MatrixAllows]
  · simp [MatrixAllows]
  · simp [MatrixAllows]
  · rw [allowedAction_of_gt row hgt]
    exact iff_of_false nofun fun h => absurd (toNat_le_of_matrixAllows h) (Nat.not_le.mpr hgt)

/-- Settles O34, action by action. -/
theorem roleCheckFollowsTheTable : Obligations.RoleCheckFollowsTheTable := by
  intro c par act
  rcases action_cases act with rfl | rfl | rfl | rfl | rfl | hgt
  · simp [RoleAccepts]
  · simp [RoleAccepts]
  · simp [RoleAccepts]
  · simp [RoleAccepts]
  · simp [RoleAccepts]
  · rw [checkReplyAction_of_gt c par hgt]
    exact iff_of_false nofun fun h => absurd (toNat_le_of_roleAccepts h) (Nat.not_le.mpr hgt)

theorem gated_iff {par : ParamRegs} {row : Row} :
    gated par row = true ↔ row.linuxptpOnly = true ∧ par.linuxptp = false := by
  simp [gated]

/-- The gate of an ID is that of its row. -/
theorem gatedId_iff {c : Impl} {par : ParamRegs} {id : BitVec 16} {row : Row} (hrow : c.reg id = some row) :
    GatedId c par id ↔ gated par row = true := by
  rw [gated_iff]
  refine ⟨fun ⟨row', hrow', hgate⟩ => ?_, fun hgate => ⟨row, hrow, hgate⟩⟩
  cases hrow.symm.trans hrow'
  exact hgate

/-! ### SET_ACTION (R213, R253) -/

/-- The validation of SET_ACTION in the words of R213. -/
theorem actionAccepted_iff {c : Impl} {par : ParamRegs} {act : BitVec 4} {id : BitVec 16} :
    actionAccepted c par act id = true ↔ ActionValid c par act id := by
  unfold actionAccepted ActionValid
  cases hrow : c.reg id with
  | none => simp
  | some row =>
    have hmatrix := actionMatrixMirrorsTheRequest row act
    have hle : MatrixAllows row act → act.toNat ≤ 4 := toNat_le_of_matrixAllows
    simp only [gatedId_iff hrow, Option.some.injEq, exists_eq_left', Bool.and_eq_true, decide_eq_true_iff, bne_iff_ne,
      Bool.not_eq_true', Bool.not_eq_true, hmatrix]
    tauto

/-- What SET_ACTION leaves, accepted or not. -/
theorem setActionWith_effect (c : Impl) (v : Bool) (act : BitVec 4) (id : BitVec 16) {s : State} (hp : s.pv = true) :
    ∃ t, setActionWith c v act id s = .next t ∧ SetActionEffect c v act id s t := by
  by_cases ha : actionAccepted c s.par act id = true
  · refine ⟨_, setActionWith_accepted hp ha, fun _ => ⟨rfl, fun hds => if_pos hds⟩, fun hn => ?_⟩
    exact absurd (actionAccepted_iff.mp ha) hn
  · refine ⟨_, setActionWith_rejected hp (Bool.eq_false_iff.mpr ha), fun hv => ?_, fun _ => rfl⟩
    exact absurd (actionAccepted_iff.mpr hv) ha

/-- The fields of format S, grouped as the encoder writes them (R101). -/
theorem append_append_append_assoc (op : BitVec 8) (z : BitVec 3) (b : BitVec 1) (act : BitVec 4) (id : BitVec 16) :
    op ++ z ++ b ++ act ++ id = (op ++ (z ++ b ++ act ++ id) : BitVec 32) := by
  refine BitVec.eq_of_toNat_eq ?_
  simp only [BitVec.toNat_append, Nat.shiftLeft_or_distrib, Nat.or_assoc, ← Nat.shiftLeft_add]

theorem encode_setAction (v : Bool) (act : BitVec 4) (id : BitVec 16) :
    encode (.setAction v act id) = 0x43#8 ++ 0#3 ++ BitVec.ofBool v ++ act ++ id :=
  (append_append_append_assoc 0x43#8 0#3 (BitVec.ofBool v) act id).symm

/-- Settles O31: the word, the frame of R40, and `setActionWith_effect`. -/
theorem setActionValidatesAgainstTheRegistry : Obligations.SetActionValidatesAgainstTheRegistry := by
  refine ⟨fun v act id => decode_eq_ok_iff.mpr (encode_setAction v act id), fun v act id s hp => ?_,
    fun c v act id s hp => setActionWith_effect c v act id hp, fun v act id s hp => ?_⟩
  · rw [exec_setAction, setActionWith_refused hp]
  · rw [exec_setAction]
    exact setActionWith_effect Config.impl v act id hp

/-- Each ground of R253 leaves no row that allows the action. -/
theorem not_actionValid {c : Impl} {par : ParamRegs} {act : BitVec 4} {id : BitVec 16}
    (h : c.reg id = none ∨ 4 < act.toNat ∨ ∃ row, c.reg id = some row ∧ allowedAction row act = false) :
    ¬ ActionValid c par act id := by
  rintro ⟨row, hrow, -, -, hallows⟩
  rcases h with hnone | hgt | ⟨row', hrow', hdenies⟩
  · cases hnone.symm.trans hrow
  · exact absurd (toNat_le_of_matrixAllows hallows) (Nat.not_le.mpr hgt)
  · cases hrow.symm.trans hrow'
    cases hdenies.symm.trans ((actionMatrixMirrorsTheRequest row act).mpr hallows)

theorem setActionWith_of_not_actionValid {c : Impl} {v : Bool} {act : BitVec 4} {id : BitVec 16} {s : State}
    (hp : s.pv = true) (h : ¬ ActionValid c s.par act id) :
    setActionWith c v act id s = .next { s with x := { s.x with x0 := 0 }, st := .ok } :=
  setActionWith_rejected hp (Bool.eq_false_iff.mpr (mt actionAccepted_iff.mp h))

/-- Settles O32: none of the three grounds meets `ActionValid`. -/
theorem disallowedActionsLeaveTheStateAlone : Obligations.DisallowedActionsLeaveTheStateAlone :=
  fun _ _ _ _ _ hp h => setActionWith_of_not_actionValid hp (not_actionValid h)

/-- Settles O51: `Effect.actionOk` of every command. -/
theorem commandsKeepTheActionAllowed : Obligations.CommandsKeepTheActionAllowed :=
  fun i _ _ hs h => (exec_effect i h).actionOk hs

end Sys2Proof.Machine
end

section
/-! The message BUILD leaves in `TX`, octet by octet as the statements write it (42_frame_engine.md R220 to R232). -/

namespace Sys2Proof.Machine

/-! ### Stored octets -/

/-- Octets overwritten inside a stored string: the string with those octets replaced. -/
theorem Stores.overwrite {m m' : Memory} {a b : Nat} {o o' p : List Octet} (h : Stores m m' a o) (x y z : List Octet)
    (ho : o = x ++ y ++ z) (ho' : o' = x ++ p ++ z) (hp : p.length = y.length) (hb : b = a + x.length) :
    Stores m (m'.writeBytes b p) a o' := by
  subst ho ho' hb
  obtain ⟨hin, hout⟩ := h
  simp only [List.length_append] at hin hout
  refine ⟨fun j hj => ?_, fun b hb => ?_⟩
  · simp only [List.length_append] at hj
    rw [Memory.read_writeBytes]
    by_cases hmid : x.length ≤ j ∧ j < x.length + p.length
    · rw [dif_pos (by omega), List.getElem_append_left (by rw [List.length_append]; omega),
        List.getElem_append_right hmid.1]
      congr 1; omega
    · rw [dif_neg (by omega), hin j (by omega)]
      rcases Nat.lt_or_ge j x.length with hlt | hge
      · simp [hlt]
      · simp [List.getElem_append, show ¬ j < x.length by omega, show ¬ j - x.length < y.length by omega, hp]
  · simp only [List.length_append] at hb
    rw [Memory.read_writeBytes, dif_neg (by omega), hout b (by omega)]

/-- A part of a stored string is read back as a string. -/
theorem Stores.readBytes_part {m m' : Memory} {a b k : Nat} {o : List Octet} (h : Stores m m' a o) (x y z : List Octet)
    (ho : o = x ++ y ++ z) (hb : b = a + x.length) (hk : k = y.length) : m'.readBytes b k = y := by
  subst ho hb hk
  refine List.ext_getElem (Memory.readBytes_length ..) fun j hj hj' => ?_
  rw [Memory.readBytes_getElem, Nat.add_assoc, h.1 _ (by simp only [List.length_append]; omega),
    List.getElem_append_left (by rw [List.length_append]; omega), List.getElem_append_right (Nat.le_add_right _ _)]
  simp only [Nat.add_sub_cancel_left]

@[simp] theorem octetsBE_length (k n : Nat) : (octetsBE k n).length = k := by
  rw [octetsBE, List.length_map, List.length_range]

theorem octetsBE_two (n : Nat) : octetsBE 2 n = [BitVec.ofNat 8 (n / 256), BitVec.ofNat 8 n] := by
  simp [octetsBE, List.range_succ]

theorem octetsBE_toNat_ofNat {k n : Nat} (h : n < 2 ^ 64) : octetsBE k n = bytesBE k (BitVec.ofNat 64 n) := by
  rw [bytesBE_eq_octetsBE, BitVec.toNat_ofNat, Nat.mod_eq_of_lt h]

theorem bytesBE_setWidth16 (k : Nat) (v : BitVec 16) : bytesBE k (v.setWidth 64) = octetsBE k v.toNat := by
  rw [bytesBE_eq_octetsBE, BitVec.toNat_setWidth_of_le (by norm_num)]

/-- A stored big-endian integer has its value (R14). -/
theorem wireValue_of_octetsBE {m : Memory} {a k n : Nat} (h : m.readBytes a k = octetsBE k n) (hn : n < 256 ^ k)
    (hk : k ≤ 8) : wireValue m a k = n := by
  have h64 : 256 ^ k ≤ 2 ^ 64 := (Nat.pow_le_pow_right (by norm_num) hk).trans (by norm_num)
  rw [← beNat_readBytes, h, octetsBE_toNat_ofNat (by omega), beNat_bytesBE, BitVec.toNat_ofNat,
    Nat.mod_eq_of_lt (a := n) (by omega), Nat.mod_eq_of_lt hn]

/-! ### The PTP header (R113, R223) -/

/-- The fields of the PTP header of a message of `len` octets, each with its offset. -/
def builtHeaderFields (l : HeaderLayout) (par : ParamRegs) (seq : BitVec 16) (len : Nat) : List (Nat × List Octet) :=
  [(l.offTsmt, [(par.ts ++ 0xD#4 : Octet)]), (l.offVer, [0x02]), (l.offMsgLen, octetsBE 2 len),
   (l.offDomain, [par.domain]), (l.offFlags, [if par.unicast then l.unicastMask else 0, 0]),
   (l.offSrcPort, octetsBE 8 par.selfId.cid.toNat ++ octetsBE 2 par.selfId.port.toNat), (30, octetsBE 2 seq.toNat),
   (l.offControl, [0x04]), (l.offLogInt, [0x7F])]

theorem portIdFields_flatten (p : PortIdentity) :
    (portIdFields p).flatten = octetsBE 8 p.cid.toNat ++ octetsBE 2 p.port.toNat := by
  simp only [portIdFields, clockIdOctets, bytesBE_setWidth16, List.flatten_cons, List.flatten_nil, List.append_nil,
    bytesBE_eq_octetsBE 8]

/-- The fields the model writes first are those with a zero for `messageLength`, which is back-filled (R223, R229). -/
theorem headerFields_eq (l : HeaderLayout) (par : ParamRegs) (seq : BitVec 16) :
    headerFields l par seq = builtHeaderFields l par seq 0 := by
  rw [headerFields, portIdFields_flatten, bytesBE_setWidth16]
  rfl

theorem builtHeaderFields_spans (l : HeaderLayout) (par : ParamRegs) (seq : BitVec 16) (len : Nat) :
    (builtHeaderFields l par seq len).map (fun f => (f.1, f.2.length)) = l.spans := by
  simp [builtHeaderFields, HeaderLayout.spans, offSeq]

/-- Every field of the header of a built message stands at its offset. -/
theorem octetAt_builtHeaderFields {l : HeaderLayout} (hl : l.wf = true) {par : ParamRegs} {seq : BitVec 16}
    {len a j : Nat} {o : List Octet} (hm : (a, o) ∈ builtHeaderFields l par seq len) (hj : j < o.length) :
    octetAt (builtHeaderFields l par seq len) (a + j) = o[j] := by
  refine octetAt_of_mem ?_ hm hj
  have h := ((HeaderLayout.wf_iff l).1 hl).2.1
  rwa [← builtHeaderFields_spans l par seq len, List.pairwise_map] at h

/-- Apart from `messageLength`, the octets of the header do not depend on the length. -/
theorem octetAt_builtHeaderFields_of_notMem (l : HeaderLayout) (par : ParamRegs) (seq : BitVec 16) (len : Nat) {j : Nat}
    (hj : j < l.offMsgLen ∨ l.offMsgLen + 2 ≤ j) :
    octetAt (builtHeaderFields l par seq len) j = octetAt (builtHeaderFields l par seq 0) j := by
  have hout : ¬ (l.offMsgLen ≤ j ∧ j < l.offMsgLen + 2) := by omega
  simp only [builtHeaderFields, octetAt, octetsBE_length, if_neg hout]

/-- Octet after octet, a field is its first octet and a field of the others. -/
theorem octetAt_cons_cons (a : Nat) (o : Octet) (os : List Octet) (rest : List (Nat × List Octet)) (j : Nat) :
    octetAt ((a, o :: os) :: rest) j = if j = a then o else octetAt ((a + 1, os) :: rest) j := by
  simp only [octetAt, List.length_cons]
  by_cases h : j = a
  · rw [if_pos h, if_pos (by omega), h, Nat.sub_self, List.getD_cons_zero]
  · rw [if_neg h]
    by_cases hin : a ≤ j ∧ j < a + (os.length + 1)
    · rw [if_pos hin, if_pos (by omega), show j - a = (j - (a + 1)) + 1 by omega, List.getD_cons_succ]
    · rw [if_neg hin, if_neg (by omega)]

theorem octetAt_cons_nil (a : Nat) (rest : List (Nat × List Octet)) (j : Nat) :
    octetAt ((a, []) :: rest) j = octetAt rest j := by
  rw [octetAt, if_neg (by simp only [List.length_nil]; omega)]

theorem octetAt_cons_append (a : Nat) (o p : List Octet) (rest : List (Nat × List Octet)) (j : Nat) :
    octetAt ((a, o ++ p) :: rest) j = octetAt ((a, o) :: (a + o.length, p) :: rest) j := by
  induction o generalizing a with
  | nil => rw [octetAt_cons_nil]; rfl
  | cons x o ih =>
    rw [List.cons_append, octetAt_cons_cons, octetAt_cons_cons, ih, List.length_cons, Nat.add_assoc, Nat.add_comm 1]

theorem octetAt_cons_octetsBE (a k n : Nat) (rest : List (Nat × List Octet)) (j : Nat) :
    octetAt ((a, octetsBE k n) :: rest) j =
      if a ≤ j ∧ j < a + k then BitVec.ofNat 8 (n / 256 ^ (k - 1 - (j - a))) else octetAt rest j := by
  rw [octetAt, octetsBE_length]
  split_ifs with h
  · rw [List.getD_eq_getElem _ _ (by rw [octetsBE_length]; omega)]
    simp only [octetsBE, List.getElem_map, List.getElem_range]
  · rfl

/-- The header of the statements is the fields at their offsets, zero where none lies. -/
theorem headerOctet_eq {l : HeaderLayout} (hl : l.wf = true) (par : ParamRegs) (seq : BitVec 16) (len j : Nat) :
    headerOctet l par seq len j = octetAt (builtHeaderFields l par seq len) j := by
  simp only [builtHeaderFields, octetsBE_two, octetAt_cons_append, octetAt_cons_octetsBE, octetAt_cons_cons,
    octetAt_cons_nil, octetsBE_length]
  by_cases hflags : j = l.offFlags + 1
  · have hapart := ((HeaderLayout.wf_iff l).1 hl).2.1
    simp only [HeaderLayout.spans, List.pairwise_cons, List.forall_mem_cons, offSeq] at hapart
    obtain ⟨-, -, -, -, ⟨hsrc, hseq, hcontrol, hlogInt, -⟩, -⟩ := hapart
    have hcid : ¬ (l.offSrcPort ≤ j ∧ j < l.offSrcPort + 8) := by omega
    have ⟨hport₈, hport₉, h30, h31, hctl, hlog⟩ : j ≠ l.offSrcPort + 8 ∧ j ≠ l.offSrcPort + 9 ∧ j ≠ 30 ∧ j ≠ 31 ∧
        j ≠ l.offControl ∧ j ≠ l.offLogInt := by omega
    rw [headerOctet, if_neg hcid, if_neg hport₈, if_neg hport₉, if_neg h30, if_neg h31, if_neg hctl, if_neg hlog,
      if_pos hflags]
  · simp only [headerOctet, if_neg hflags]
    rfl

/-- The octets of the header around `messageLength` are the same for every length. -/
theorem headerOctets_split {l : HeaderLayout} (hl : l.wf = true) (hfits : l.offMsgLen + 2 ≤ 34) (par : ParamRegs)
    (seq : BitVec 16) :
    ∃ pre post, pre.length = l.offMsgLen ∧
      ∀ len, (List.range 34).map (headerOctet l par seq len) = pre ++ octetsBE 2 len ++ post := by
  refine ⟨(List.range l.offMsgLen).map (headerOctet l par seq 0),
    (List.range (32 - l.offMsgLen)).map fun j => headerOctet l par seq 0 (l.offMsgLen + 2 + j), by simp, fun len => ?_⟩
  have hfield : (List.range 2).map (fun j => headerOctet l par seq len (l.offMsgLen + j)) = octetsBE 2 len := by
    refine List.ext_getElem (by simp) fun j _ hj => ?_
    rw [List.getElem_map, List.getElem_range, headerOctet_eq hl]
    exact octetAt_builtHeaderFields hl (by simp [builtHeaderFields]) hj
  have hother : ∀ j, j < l.offMsgLen ∨ l.offMsgLen + 2 ≤ j →
      headerOctet l par seq len j = headerOctet l par seq 0 j := by
    intro j hj
    rw [headerOctet_eq hl, headerOctet_eq hl, octetAt_builtHeaderFields_of_notMem l par seq len hj]
  rw [← hfield, show 34 = l.offMsgLen + 2 + (32 - l.offMsgLen) by omega, List.range_add, List.range_add]
  simp only [List.map_append, List.map_map, Function.comp_def]
  congr 1
  · congr 1
    exact List.map_congr_left fun j hj => hother j (.inl (List.mem_range.mp hj))
  · exact List.map_congr_left fun j _ => hother _ (.inr (Nat.le_add_right _ j))

theorem ptpHeader_flatten {l : HeaderLayout} (hl : l.wf = true) (par : ParamRegs) (seq : BitVec 16) :
    (ptpHeader l par seq).flatten = (List.range 34).map (headerOctet l par seq 0) := by
  have hmap : ptpHeader l par seq = ((List.range 34).map (headerOctet l par seq 0)).map fun o => [o] := by
    rw [List.map_map, ptpHeader, headerFields_eq]
    exact List.map_congr_left fun j _ => congrArg (fun o => [o]) (headerOctet_eq hl par seq 0 j).symm
  rw [hmap, flatten_singletons]

/-! ### The whole message (R221, R224 to R229) -/

theorem padding_eq_padOf (data : List Octet) : padding data = padOf data := by
  rw [padding, padOf]
  exact if_congr (by omega) rfl rfl

theorem dataAndPad_even (data : List Octet) : (data ++ padOf data).length % 2 = 0 := by
  rw [List.length_append, padOf]
  split_ifs
  · rw [List.length_singleton]; omega
  · rw [List.length_nil]; omega

/-- The management header and `tlvType` (R224, R225). -/
def managementOctets (par : ParamRegs) (act : BitVec 4) : List Octet :=
  octetsBE 8 par.target.cid.toNat ++ octetsBE 2 par.target.port.toNat ++ [par.hops, par.hops, 0#4 ++ act, 0] ++
    [0x00, 0x01]

@[simp] theorem managementOctets_length (par : ParamRegs) (act : BitVec 4) :
    (managementOctets par act).length = 16 := by
  simp [managementOctets]

theorem framedPayload_eq (par : ParamRegs) (act : BitVec 4) (id : BitVec 16) (data : List Octet) :
    framedPayload par act id data =
      managementOctets par act ++ octetsBE 2 (2 + (data ++ padOf data).length) ++
        (octetsBE 2 id.toNat ++ (data ++ padOf data)) := by
  simp only [framedPayload, managementOctets, List.length_append, List.append_assoc, Nat.add_assoc]

theorem framedMessage_length (l : HeaderLayout) (par : ParamRegs) (act : BitVec 4) (id seq : BitVec 16)
    (data : List Octet) : (framedMessage l par act id seq data).length = 54 + (data ++ padOf data).length := by
  simp only [framedMessage, framedPayload_eq, List.length_append, List.length_map, List.length_range,
    managementOctets_length, octetsBE_length]
  omega

/-- What BUILD writes before it fills in the two lengths. -/
theorem messageHead_eq {l : HeaderLayout} (hl : l.wf = true) (par : ParamRegs) (act : ActionRegs) (seq : BitVec 16) :
    messageHead l par act seq =
      (List.range 34).map (headerOctet l par seq 0) ++ managementOctets par act.action ++ octetsBE 2 0 ++
        octetsBE 2 act.id.toNat := by
  have htlv : bytesBE 2 (tlvManagement.setWidth 64) = [0x00, 0x01] := rfl
  have hzero : bytesBE 2 0 = octetsBE 2 0 := rfl
  simp only [messageHead, List.flatten_append, ptpHeader_flatten hl, managementHeaderFields, portIdFields_flatten,
    bytesBE_setWidth16, htlv, hzero, managementOctets, List.append_assoc]
  rfl

/-- The two back-fills complete the message (R229). -/
theorem stores_backfilled (c : Impl) (par : ParamRegs) (act : ActionRegs) (seq : BitVec 16) (data : List Octet)
    (m : Memory) (hlen : 54 + (data ++ padOf data).length < 2 ^ 64) :
    Stores m
      (((m.writeBytes 0 (messageHead c.header par act seq ++ (data ++ padOf data))).writeBytes 50
          (bytesBE 2 (BitVec.ofNat 64 (2 + (data ++ padOf data).length)))).writeBytes c.header.offMsgLen
        (bytesBE 2 (BitVec.ofNat 64 (54 + (data ++ padOf data).length))))
      0 (framedMessage c.header par act.action act.id seq data) := by
  obtain ⟨pre, post, hpre, hsplit⟩ := headerOctets_split c.headerOk (offMsgLen_fits c) par seq
  rw [← octetsBE_toNat_ofNat hlen, ← octetsBE_toNat_ofNat (n := 2 + _) (by omega)]
  have hwritten := m.stores_writeBytes 0 (messageHead c.header par act seq ++ (data ++ padOf data))
  have hfilled := hwritten.overwrite (b := 50) (p := octetsBE 2 (2 + (data ++ padOf data).length))
    ((List.range 34).map (headerOctet c.header par seq 0) ++ managementOctets par act.action) (octetsBE 2 0)
    (octetsBE 2 act.id.toNat ++ (data ++ padOf data))
    (by rw [messageHead_eq c.headerOk, List.append_assoc _ (octetsBE 2 act.id.toNat)]) rfl (by simp) (by simp)
  refine hfilled.overwrite pre (octetsBE 2 0) (post ++ framedPayload par act.action act.id data) ?_ ?_ (by simp)
    (by rw [hpre, Nat.zero_add])
  · rw [hsplit, framedPayload_eq]
    simp only [List.append_assoc]
  · rw [framedMessage, hsplit, Nat.add_assoc 54, ← List.length_append, List.append_assoc]

/-! ### What BUILD and BUILD_CAP leave -/

/-- The gate BUILD tests is that of R201; an ID with no row counts as open (log entry 10). -/
theorem buildGated_iff {c : Impl} {s : State} : buildGated c s = true ↔ GatedId c s.par s.act.id := by
  unfold buildGated
  cases hrow : c.reg s.act.id with
  | none => exact iff_of_false nofun fun ⟨row, hsome, _⟩ => by cases hrow.symm.trans hsome
  | some row => exact (gatedId_iff hrow).symm

/-- What `buildInto_next` lists, in the words of R220 to R230. -/
theorem buildEffect_of_next {c : Impl} {cap : Nat} {seq : BitVec 16} {s t : State} (hcap : cap < 2 ^ 32)
    (h : buildInto c cap seq s = .next t) : BuildEffect c cap seq s t := by
  have hopen (hgate : buildGated c s = false) : ¬ GatedId c s.par s.act.id := fun hg => by
    cases hgate.symm.trans (buildGated_iff.mpr hg)
  rcases buildInto_next hcap h with ⟨e, rfl, hcode⟩ | ⟨hgate, data, hdata, hfits, rfl⟩
  · rcases hcode with ⟨hgate, rfl⟩ | ⟨hgate, hsmall, rfl⟩ | ⟨hgate, hroom, p, hp, rfl⟩ |
      ⟨hgate, hroom, data, hdata, hsmall, rfl⟩
    -- the gate, then the room for the head, then the processor's error, then the room for the rest
    · have hgated := buildGated_iff.mp hgate
      exact ⟨rfl, fun _ => rfl, absurd hgated, absurd hgated, absurd hgated⟩
    · exact ⟨rfl, fun hg => absurd hg (hopen hgate), fun _ _ => rfl,
        fun _ hroom => absurd hsmall (Nat.not_lt.mpr hroom), fun _ hroom => absurd hsmall (Nat.not_lt.mpr hroom)⟩
    · refine ⟨rfl, fun hg => absurd hg (hopen hgate), fun _ hsmall => absurd hsmall (Nat.not_lt.mpr hroom),
        fun _ _ e he => ?_, fun _ _ data hdata => ?_⟩
      · cases hp.symm.trans he; rfl
      · cases hp.symm.trans hdata
    · refine ⟨rfl, fun hg => absurd hg (hopen hgate), fun _ hsmall => absurd hsmall (Nat.not_lt.mpr hroom),
        fun _ _ e he => ?_, fun _ _ data' hdata' => ⟨fun _ => rfl, fun hfits => ?_⟩⟩
      · cases hdata.symm.trans he
      · cases hdata.symm.trans hdata'
        rw [framedMessage_length, ← padding_eq_padOf] at hfits
        exact absurd hsmall (Nat.not_lt.mpr hfits)
  · rw [padding_eq_padOf] at hfits ⊢
    refine ⟨rfl, fun hg => absurd hg (hopen hgate), fun _ hsmall => by omega, fun _ _ e he => ?_,
      fun _ _ data' hdata' => ?_⟩
    · cases hdata.symm.trans he
    · cases hdata.symm.trans hdata'
      have hlength := framedMessage_length c.header s.par s.act.action s.act.id seq data
      exact ⟨fun hsmall => by omega, fun _ => ⟨rfl, congrArg (BitVec.ofNat 64) hlength.symm,
        stores_backfilled c s.par s.act seq data s.tx (by omega)⟩⟩

theorem buildInto_effect (c : Impl) {cap : Nat} (hcap : cap ≤ c.txSize) (seq : BitVec 16) (s : State) :
    ∃ t, buildInto c cap seq s = .next t ∧ BuildEffect c cap seq s t := by
  have hsize := txSize_le c
  obtain ⟨t, ht⟩ := buildInto_completes c cap seq s
  exact ⟨t, ht, buildEffect_of_next (by omega) ht⟩

theorem buildWith_of_valid {c : Impl} {seq : BitVec 16} {s : State} (hp : s.pv = true) (ha : s.av = true) :
    buildWith c seq s = buildInto c c.txSize seq s := whenBuildable_of_valid hp ha

theorem buildCapWith_of_fits {c : Impl} {seq : BitVec 16} {s : State} (hp : s.pv = true) (ha : s.av = true)
    (hcap : s.x.x0.toNat ≤ c.txSize) : buildCapWith c seq s = buildInto c s.x.x0.toNat seq s :=
  (whenBuildable_of_valid hp ha).trans (if_pos hcap)

theorem buildCapWith_refused {c : Impl} {seq : BitVec 16} {s : State} (hp : s.pv = true) (ha : s.av = true)
    (hcap : c.txSize < s.x.x0.toNat) : buildCapWith c seq s = .refused .lengthBeyondBuffer :=
  (whenBuildable_of_valid hp ha).trans (if_neg (Nat.not_le.mpr hcap))

theorem buildWith_effect (c : Impl) (seq : BitVec 16) {s : State} (hp : s.pv = true) (ha : s.av = true) :
    ∃ t, buildWith c seq s = .next t ∧ BuildEffect c c.txSize seq s t := by
  rw [buildWith_of_valid hp ha]
  exact buildInto_effect c le_rfl seq s

theorem buildCapWith_effect (c : Impl) (seq : BitVec 16) {s : State} (hp : s.pv = true) (ha : s.av = true)
    (hcap : s.x.x0.toNat ≤ c.txSize) :
    ∃ t, buildCapWith c seq s = .next t ∧ BuildEffect c s.x.x0.toNat seq s t := by
  rw [buildCapWith_of_fits hp ha hcap]
  exact buildInto_effect c hcap seq s

/-- The fields of format Q, grouped as the encoder writes them (R101). -/
theorem append_append_assoc (op z : BitVec 8) (seq : BitVec 16) :
    op ++ z ++ seq = (op ++ (z ++ seq : BitVec 24) : BitVec 32) := by
  refine BitVec.eq_of_toNat_eq ?_
  simp only [BitVec.toNat_append, Nat.shiftLeft_or_distrib, Nat.or_assoc, ← Nat.shiftLeft_add]

theorem encode_build (seq : BitVec 16) : encode (.build seq) = 0x48#8 ++ 0#8 ++ seq :=
  (append_append_assoc 0x48#8 0#8 seq).symm

theorem encode_buildCap (seq : BitVec 16) : encode (.buildCap seq) = 0x49#8 ++ 0#8 ++ seq :=
  (append_append_assoc 0x49#8 0#8 seq).symm

/-- Settles O36: the word, the frame of R40 and R221, and `buildWith_effect`. -/
theorem buildWritesTheFramedMessage : Obligations.BuildWritesTheFramedMessage := by
  refine ⟨fun seq => decode_eq_ok_iff.mpr (encode_build seq), fun seq s hn => ?_,
    fun c seq s => buildWith_effect c seq, fun seq s hp ha => ?_⟩
  · refine (exec_completesWhen (.build seq) s).refused_iff.mpr ?_
    rcases hn with hpv | hav
    · simp [Precondition, hpv]
    · simp [Precondition, hav]
  · rw [exec_build]
    exact buildWith_effect Config.impl seq hp ha

/-- Settles O37: the word, `buildCapWith_effect` within `TX_SIZE` and the refusal above it. -/
theorem buildCapHonoursTheCapacity : Obligations.BuildCapHonoursTheCapacity := by
  refine ⟨fun seq => decode_eq_ok_iff.mpr (encode_buildCap seq),
    fun c seq s hp ha => ⟨buildCapWith_effect c seq hp ha, buildCapWith_refused hp ha⟩, fun seq s hp ha => ?_⟩
  rw [exec_buildCap]
  exact ⟨buildCapWith_effect Config.impl seq hp ha, buildCapWith_refused hp ha⟩

/-! ### A build that returned OK (R232) -/

theorem codeOfProcError_ne_ok (p : ProcError) : codeOfProcError p ≠ .ok := by
  cases p <;> decide

/-- A build that returned OK: the gate is open, and `TX` holds the message that `PROC.build`'s answer gives. -/
theorem BuildEffect.of_ok {c : Impl} {cap : Nat} {seq : BitVec 16} {s t : State} (h : BuildEffect c cap seq s t)
    (hst : t.st = .ok) :
    ¬ GatedId c s.par s.act.id ∧ ∃ data, c.procBuild s.act.id s.act.action (dataOffered s) = .ok data ∧
      54 + (data ++ padOf data).length ≤ cap ∧ t.x.x0 = BitVec.ofNat 64 (54 + (data ++ padOf data).length) ∧
      Stores s.tx t.tx 0 (framedMessage c.header s.par s.act.action s.act.id seq data) := by
  obtain ⟨-, hgated, hsmall, herror, hdone⟩ := h
  have hopen : ¬ GatedId c s.par s.act.id := fun hg => by cases hst.symm.trans (hgated hg)
  have hroom : 54 ≤ cap := Nat.not_lt.mp fun hlt => by cases hst.symm.trans (hsmall hopen hlt)
  refine ⟨hopen, ?_⟩
  cases hdata : c.procBuild s.act.id s.act.action (dataOffered s) with
  | error e => exact absurd ((herror hopen hroom e hdata).symm.trans hst) (codeOfProcError_ne_ok e)
  | ok data =>
    obtain ⟨htooLong, hok⟩ := hdone hopen hroom data hdata
    have hfits := Nat.not_lt.mp fun hlt => by cases hst.symm.trans (htooLong hlt)
    obtain ⟨-, hx, hstores⟩ := hok hfits
    rw [framedMessage_length] at hfits hx
    exact ⟨data, rfl, hfits, hx, hstores⟩

/-- A memory that holds a whole message from offset 0 on, field by field (R113, R121, R123). -/
structure HoldsMessage (l : HeaderLayout) (par : ParamRegs) (act : BitVec 4) (id seq : BitVec 16) (data : List Octet)
    (m : Memory) : Prop where
  headerField : ∀ {a o}, (a, o) ∈ builtHeaderFields l par seq (54 + (data ++ padOf data).length) →
    m.readBytes a o.length = o
  action : m.read 46 = 0#4 ++ act
  tlvType : wireValue m 48 2 = 1
  lengthField : wireValue m 50 2 = 2 + (data ++ padOf data).length
  managementId : wireValue m 52 2 = id.toNat
  dataField : m.readBytes 54 (data ++ padOf data).length = data ++ padOf data

section
variable {l : HeaderLayout} {par : ParamRegs} {act : BitVec 4} {id seq : BitVec 16} {data : List Octet} {m m' : Memory}

theorem Stores.headerField (hl : l.wf = true) (h : Stores m m' 0 (framedMessage l par act id seq data)) {a : Nat}
    {o : List Octet} (hm : (a, o) ∈ builtHeaderFields l par seq (54 + (data ++ padOf data).length)) :
    m'.readBytes a o.length = o := by
  have hspan : (a, o.length) ∈ l.spans := by
    rw [← builtHeaderFields_spans l par seq (54 + (data ++ padOf data).length)]
    exact List.mem_map_of_mem (f := fun f => (f.1, f.2.length)) hm
  have hfits : a + o.length ≤ 34 := ((HeaderLayout.wf_iff l).1 hl).1 _ hspan
  refine List.ext_getElem (Memory.readBytes_length ..) fun j _ hj => ?_
  have hread := h.1 (a + j) (by rw [framedMessage_length]; omega)
  rw [Nat.zero_add] at hread
  rw [Memory.readBytes_getElem, hread, ← octetAt_builtHeaderFields hl hm hj, ← headerOctet_eq hl]
  simp only [framedMessage]
  rw [List.getElem_append_left (by simp only [List.length_map, List.length_range]; omega), List.getElem_map,
    List.getElem_range, List.length_append, Nat.add_assoc]

/-- The fields past the PTP header, each cut out of the message. -/
theorem Stores.payloadFields {hd : List Octet} (hhd : hd.length = 34)
    (h : Stores m m' 0 (hd ++ framedPayload par act id data)) :
    m'.readBytes 46 1 = [0#4 ++ act] ∧ m'.readBytes 48 2 = octetsBE 2 1 ∧
      m'.readBytes 50 2 = octetsBE 2 (2 + (data ++ padOf data).length) ∧ m'.readBytes 52 2 = octetsBE 2 id.toNat ∧
      m'.readBytes 54 (data ++ padOf data).length = data ++ padOf data := by
  rw [framedPayload_eq] at h
  generalize data ++ padOf data = body at h ⊢
  refine ⟨?_, ?_, ?_, ?_, ?_⟩
  · exact h.readBytes_part
      (hd ++ (octetsBE 8 par.target.cid.toNat ++ octetsBE 2 par.target.port.toNat ++ [par.hops, par.hops])) _
      ([0] ++ [0x00, 0x01] ++ octetsBE 2 (2 + body.length) ++ (octetsBE 2 id.toNat ++ body))
      (by simp [managementOctets]) (by simp [hhd]) rfl
  · exact h.readBytes_part
      (hd ++ (octetsBE 8 par.target.cid.toNat ++ octetsBE 2 par.target.port.toNat ++
        [par.hops, par.hops, 0#4 ++ act, 0]))
      [0x00, 0x01] (octetsBE 2 (2 + body.length) ++ (octetsBE 2 id.toNat ++ body))
      (by simp [managementOctets]) (by simp [hhd]) rfl
  · exact h.readBytes_part (hd ++ managementOctets par act) _ (octetsBE 2 id.toNat ++ body) (by simp) (by simp [hhd])
      (by simp)
  · exact h.readBytes_part (hd ++ managementOctets par act ++ octetsBE 2 (2 + body.length)) _ body (by simp)
      (by simp [hhd]) (by simp)
  · exact h.readBytes_part (hd ++ managementOctets par act ++ octetsBE 2 (2 + body.length) ++ octetsBE 2 id.toNat) _ []
      (by simp) (by simp [hhd]) rfl

theorem Stores.holdsMessage (hl : l.wf = true) (h : Stores m m' 0 (framedMessage l par act id seq data))
    (hlen : 54 + (data ++ padOf data).length ≤ 65535) : HoldsMessage l par act id seq data m' := by
  obtain ⟨haction, htype, hlength, hid, hdata⟩ := Stores.payloadFields (by simp) h
  exact ⟨h.headerField hl, List.head_eq_of_cons_eq haction, wireValue_of_octetsBE htype (by norm_num) (by norm_num),
    wireValue_of_octetsBE hlength (by omega) (by norm_num), wireValue_of_octetsBE hid id.isLt (by norm_num), hdata⟩

theorem HoldsMessage.messageLength (h : HoldsMessage l par act id seq data m)
    (hlen : 54 + (data ++ padOf data).length ≤ 65535) :
    wireValue m l.offMsgLen 2 = 54 + (data ++ padOf data).length := by
  have hfield := h.headerField (a := l.offMsgLen) (o := octetsBE 2 (54 + (data ++ padOf data).length))
    (by simp [builtHeaderFields])
  rw [octetsBE_length] at hfield
  exact wireValue_of_octetsBE hfield (by omega) (by norm_num)

end

/-- What a BUILD or BUILD_CAP that returned OK left in `TX` and `x[0]` (R230, R232). -/
theorem built_message {c : Impl} {seq : BitVec 16} {s t : State}
    (h : buildWith c seq s = .next t ∨ buildCapWith c seq s = .next t) (hst : t.st = .ok) :
    ∃ data, HoldsMessage c.header s.par s.act.action s.act.id seq data t.tx ∧
      t.x.x0.toNat = 54 + (data ++ padOf data).length ∧ 54 + (data ++ padOf data).length ≤ 65535 := by
  have heffect : ∃ cap ≤ c.txSize, BuildEffect c cap seq s t := by
    have hsize := txSize_le c
    rcases h with h | h
    · obtain ⟨-, -, h⟩ := whenBuildable_next h
      exact ⟨_, le_rfl, buildEffect_of_next (by omega) h⟩
    · obtain ⟨-, -, h⟩ := whenBuildable_next h
      split at h
      · exact ⟨_, ‹_›, buildEffect_of_next (by omega) h⟩
      · cases h
  obtain ⟨cap, hcap, heffect⟩ := heffect
  obtain ⟨-, data, -, hfits, hx, hstores⟩ := heffect.of_ok hst
  have hlen : 54 + (data ++ padOf data).length ≤ 65535 := (hfits.trans hcap).trans (txSize_le c)
  refine ⟨data, hstores.holdsMessage c.headerOk hlen, ?_, hlen⟩
  rw [hx, BitVec.toNat_ofNat, Nat.mod_eq_of_lt (by omega)]

/-- Settles O38: the lengths of the message `built_message` gives, with `dataAndPad_even`. -/
theorem builtMessagesHaveEvenConsistentLengths : Obligations.BuiltMessagesHaveEvenConsistentLengths := by
  intro c seq s t h hst
  obtain ⟨data, hmessage, hx, hlen⟩ := built_message h hst
  have heven := dataAndPad_even data
  rw [hmessage.tlvType, hmessage.lengthField, hmessage.messageLength hlen, hx]
  omega

/-! ### The header in the order of R223 -/

/-- At the recommended offsets the header is the fields of R223 one after the other. -/
theorem framedMessage_recommended (par : ParamRegs) (act : BitVec 4) (id seq : BitVec 16) (data : List Octet) :
    framedMessage .recommended par act id seq data = orderedMessage par act id seq data := by
  rw [framedMessage, orderedMessage]
  refine congrArg (· ++ _) ?_
  simp [HeaderLayout.recommended, headerOctet, octetsBE, List.range_succ]

/-- A build whose message fits, by the answer of `PROC.build`. -/
theorem BuildEffect.done {c : Impl} {cap : Nat} {seq : BitVec 16} {s t : State} {data : List Octet}
    (h : BuildEffect c cap seq s t) (hopen : ¬ GatedId c s.par s.act.id)
    (hdata : c.procBuild s.act.id s.act.action (dataOffered s) = .ok data)
    (hfits : (framedMessage c.header s.par s.act.action s.act.id seq data).length ≤ cap) :
    t.st = .ok ∧ t.x.x0 = BitVec.ofNat 64 (framedMessage c.header s.par s.act.action s.act.id seq data).length ∧
      Stores s.tx t.tx 0 (framedMessage c.header s.par s.act.action s.act.id seq data) := by
  obtain ⟨-, -, -, -, hdone⟩ := h
  have hroom := framedMessage_length c.header s.par s.act.action s.act.id seq data
  exact (hdone hopen (by omega) data hdata).2 hfits

/-- Settles O60: `BuildEffect.done`, with the header in its order. -/
theorem buildWritesTheHeaderInOrder : Obligations.BuildWritesTheHeaderInOrder := by
  intro c seq s data hheader hp ha _ hopen hdata
  rw [← framedMessage_recommended, ← hheader]
  refine ⟨fun hfits => ?_, fun hfits hcap => ?_⟩
  · obtain ⟨t, ht, heffect⟩ := buildWith_effect c seq hp ha
    exact ⟨t, ht, heffect.done hopen hdata hfits⟩
  · obtain ⟨t, ht, heffect⟩ := buildCapWith_effect c seq hp ha hcap
    exact ⟨t, ht, heffect.done hopen hdata hfits⟩

end Sys2Proof.Machine
end

section
/-! The order in which PARSE tests a message, test by test as R251 lists it, and the messages that a single rule turns
away (42_frame_engine.md R233 to R258). -/

namespace Sys2Proof.Machine

/-! ### The tests of the headers and of the TLV head (R235, R236, R239) -/

theorem setWidth4_ne_iff {o : Octet} {v : BitVec 4} : o.setWidth 4 ≠ v ↔ o.toNat % 16 ≠ v.toNat := by
  rw [Ne, ← BitVec.toNat_inj, BitVec.toNat_setWidth]

theorem octet_ne_iff {o v : Octet} : o ≠ v ↔ o.toNat ≠ v.toNat := by
  rw [Ne, ← BitVec.toNat_inj]

theorem be16_eq_iff {m : Memory} {a : Nat} {v : BitVec 16} : m.be16 a = v ↔ wireValue m a 2 = v.toNat := by
  rw [← BitVec.toNat_inj, Memory.toNat_be16]

theorem headerError_eq (l : HeaderLayout) (m : Memory) (n : Nat) :
    headerError l m n =
      if n < 44 then some .tooSmall
      else if n < wireValue m l.offMsgLen 2 then some .tooSmall
      else if wireValue m l.offMsgLen 2 < n then some .header
      else if (m.read l.offVer).toNat % 16 ≠ 2 then some .header
      else if (m.read l.offTsmt).toNat % 16 ≠ 13 then some .header
      else if (m.read l.offControl).toNat ≠ 4 then some .header
      else none := by
  simp only [headerError, Memory.toNat_be16, setWidth4_ne_iff, octet_ne_iff]
  rfl

theorem tlvHeadError_eq (m : Memory) (n : Nat) :
    tlvHeadError m n =
      if n < 52 then some .tooSmall
      else if wireValue m 48 2 ≠ 1 ∧ wireValue m 48 2 ≠ 2 then some .invalidTlv
      else if wireValue m 50 2 % 2 = 1 then some .size
      else if n - 52 < wireValue m 50 2 then some .invalidTlv
      else none := by
  simp only [tlvHeadError, Memory.toNat_be16, ne_eq, be16_eq_iff]
  rfl

/-- The headers pass exactly where the operand, `messageLength` and the constants agree (R235, R236). -/
theorem headerError_eq_none_iff {l : HeaderLayout} {m : Memory} {n : Nat} :
    headerError l m n = none ↔
      44 ≤ n ∧ wireValue m l.offMsgLen 2 = n ∧ (m.read l.offVer).toNat % 16 = 2 ∧
        (m.read l.offTsmt).toNat % 16 = 13 ∧ (m.read l.offControl).toNat = 4 := by
  rw [headerError_eq]
  split_ifs <;> simp only [false_iff, true_iff] <;> omega

/-! ### The order of the tests (R251) -/

/-- The tests of an error-status TLV (R240). -/
def errorStatusOrder (m : Memory) : Code :=
  let len := wireValue m 50 2
  if len < 2 then .tooSmall
  else if wireValue m 52 2 ∉ [1, 2, 3, 4, 5, 6, 0xFFFE] then .val
  else if len < 8 then .tooSmall
  else if 8 < len ∧ len - 9 < (m.read 60).toNat then .sizeMiss
  else .msg

/-- The tests of a MANAGEMENT TLV (R241 to R247). -/
def managementOrder (c : Impl) (par : ParamRegs) (m : Memory) : Code :=
  let len := wireValue m 50 2
  let act : BitVec 4 := BitVec.ofNat 4 (m.read 46).toNat
  if len < 2 then .tooSmall
  else
    match c.reg (BitVec.ofNat 16 (wireValue m 52 2)) with
    | none => .invalidId
    | some row =>
      if row.linuxptpOnly = true ∧ par.linuxptp = false then .invalidId
      else if ¬ (act = 2 ∨ act = 4 ∨
          (par.responder = true ∧ (act = 1 ∨ act = 3 ∨ (act = 0 ∧ c.acceptGetAsResponder = true)))) then .action
      else if (act = 0 ∧ row.allowGet = false) ∨ (act = 1 ∧ row.allowSet = false) ∨
          (act = 2 ∧ row.allowGet = false ∧ row.allowSet = false) ∨ ((act = 3 ∨ act = 4) ∧ row.allowCommand = false)
        then .invalidId
      else if row.size = .unsupported then .unsupport
      else if act = 0 then .ok
      else if wrongSize row.size (len - 2) then .sizeMiss
      else
        match c.procParse (BitVec.ofNat 16 (wireValue m 52 2)) act
          ((List.range (len - 2)).map fun j => m.read (54 + j)) with
        | .error e => codeOfProcError e
        | .ok _ => .ok

theorem getD_ite_some {α : Type} (p : Prop) [Decidable p] (a d : α) (o : Option α) :
    (if p then some a else o).getD d = if p then a else o.getD d := by
  split_ifs
  · rfl
  · rfl

/-- The order of R251, by the parts of a message. -/
theorem parseOrder_eq (c : Impl) (par : ParamRegs) (m : Memory) (n : Nat) :
    parseOrder c par m n =
      (headerError c.header m n).getD
        (if n < 48 then .tooSmall
        else if n = 48 then .ok
        else (tlvHeadError m n).getD
          (if wireValue m 48 2 = 2 then errorStatusOrder m else managementOrder c par m)) := by
  simp only [headerError_eq, tlvHeadError_eq, getD_ite_some, Option.getD_none]
  rfl

/-! ### The code of each part -/

/-- A display text longer than what remains of its TLV is a size error (R240). -/
theorem readDisplayText_tooLong {s : State} (hs : s.cur.toNat ≤ s.lim.toNat) (h0 : 0 < left s)
    (hlong : left s - 1 < (s.rx.read s.cur.toNat).toNat) : readDisplayText s = .error .sizeMiss := by
  unfold readDisplayText
  rw [if_neg (by omega), rdBE_of_left (show 8 / 8 ≤ left s from h0)]
  simp only [toNat_rdBE8]
  rw [left_advance h0 hs, if_pos hlong]

theorem readDisplayText_fits {s : State} (hs : s.cur.toNat ≤ s.lim.toNat)
    (h : left s = 0 ∨ (s.rx.read s.cur.toNat).toNat ≤ left s - 1) : ∃ text, readDisplayText s = .ok text := by
  unfold readDisplayText
  by_cases h0 : left s = 0
  · exact ⟨_, if_pos h0⟩
  · have h1 : 8 / 8 ≤ left s := Nat.pos_of_ne_zero h0
    rw [if_neg h0, rdBE_of_left h1]
    simp only [toNat_rdBE8]
    rw [left_advance h1 hs, if_neg (by omega)]
    exact ⟨_, rfl⟩

theorem be16_mem_managementErrorIds {m : Memory} {a : Nat} :
    m.be16 a ∈ managementErrorIds ↔ wireValue m a 2 ∈ [1, 2, 3, 4, 5, 6, 0xFFFE] := by
  simp only [managementErrorIds, List.mem_cons, be16_eq_iff, List.not_mem_nil]
  rfl

/-- The error-status branch answers the first test that fails (R240). -/
theorem parseErrorStatus_code (h : ParsedHeader) {s : State} (hcur : s.cur.toNat = 52)
    (hlim : s.lim.toNat = 52 + wireValue s.rx 50 2) : (parseErrorStatus h s).code = errorStatusOrder s.rx := by
  have hs : s.cur.toNat ≤ s.lim.toNat := by omega
  have hleft : left s = wireValue s.rx 50 2 := by rw [left, hcur, hlim, Nat.add_sub_cancel_left]
  unfold parseErrorStatus
  by_cases h2 : wireValue s.rx 50 2 < 2
  · rw [rdBE_of_short (by omega), errorStatusOrder, if_pos h2]
    rfl
  have hleft₂ : left (advance 2 s) = wireValue s.rx 50 2 - 2 := by rw [left_advance (by omega) hs, hleft]
  rw [rdBE_of_left (by omega), errorStatusOrder, if_neg h2]
  simp only [setWidth_rdBE16, hcur, be16_mem_managementErrorIds]
  by_cases hid : wireValue s.rx 52 2 ∈ [1, 2, 3, 4, 5, 6, 0xFFFE]
  swap
  · rw [if_neg hid, if_pos hid]; rfl
  rw [if_pos hid, if_neg (not_not.mpr hid), show 16 / 8 = 2 from rfl]
  by_cases h4 : wireValue s.rx 50 2 < 4
  · rw [rdBE_of_short (by omega), if_pos (by omega)]
    rfl
  have hleft₄ : left (advance 4 s) = wireValue s.rx 50 2 - 4 := by rw [left_advance (by omega) hs, hleft]
  rw [rdBE_of_left (by omega), advance_advance]
  simp only [Nat.reduceDiv, Nat.reduceAdd]
  by_cases h8 : wireValue s.rx 50 2 < 8
  · rw [rdBE_of_short (by omega), if_pos h8]
    rfl
  rw [rdBE_of_left (by omega), advance_advance, if_neg h8]
  simp only [Nat.reduceDiv, Nat.reduceAdd]
  have hcur₈ : (advance 8 s).cur.toNat = 60 := by rw [advance_cur, toNat_advance (by omega) hs, hcur]
  have hs₈ : (advance 8 s).cur.toNat ≤ (advance 8 s).lim.toNat := advance_cur_le hs (by omega)
  have hleft₈ : left (advance 8 s) = wireValue s.rx 50 2 - 8 := by rw [left_advance (by omega) hs, hleft]
  by_cases hlong : 8 < wireValue s.rx 50 2 ∧ wireValue s.rx 50 2 - 9 < (s.rx.read 60).toNat
  · rw [readDisplayText_tooLong hs₈ (by omega) (by rw [hcur₈, advance_rx]; omega), if_pos hlong]
    rfl
  · obtain ⟨text, htext⟩ := readDisplayText_fits hs₈ (by rw [hcur₈, advance_rx]; omega)
    rw [htext, if_neg hlong]
    rfl

theorem parseManagement_of_short {c : Impl} {h : ParsedHeader} {len : Nat} {s : State} (hl : left s < 2) :
    parseManagement c h len s = .failed .tooSmall := by
  rw [parseManagement, rdBE_of_short (by omega)]

theorem parseManagement_of_left {c : Impl} {h : ParsedHeader} {len : Nat} {s : State} (hl : 2 ≤ left s) :
    parseManagement c h len s = parseData c s.par h (s.rx.be16 s.cur.toNat) (s.rx.readBytes 54 (len - 2)) := by
  rw [parseManagement, rdBE_of_left (by omega)]
  simp only [setWidth_rdBE16]
  rfl

/-- How a MANAGEMENT TLV ends by the answer of `PROC.parse` (R247). -/
def procEnd (h : ParsedHeader) (id : BitVec 16) : Except ProcError Val → ParseEnd
  | .error e => .failed (codeOfProcError e)
  | .ok v => .decoded h id v

theorem parseData_of_none {c : Impl} {par : ParamRegs} {h : ParsedHeader} {id : BitVec 16} {o : List Octet}
    (hreg : c.reg id = none) : parseData c par h id o = .failed .invalidId := by
  rw [parseData, hreg]

theorem parseData_of_row {c : Impl} {par : ParamRegs} {h : ParsedHeader} {id : BitVec 16} {o : List Octet} {row : Row}
    (hreg : c.reg id = some row) :
    parseData c par h id o =
      if gated par row = true then .failed .invalidId
      else if checkReplyAction c par h.action = false then .failed .action
      else if allowedAction row h.action = false then .failed .invalidId
      else if row.size = .unsupported then .failed .unsupport
      else if h.action = 0 then .request h id
      else if sizeMismatch row.size o.length = true then .failed .sizeMiss
      else procEnd h id (c.procParse id h.action o) := by
  rw [parseData, hreg]
  simp only [Bool.not_eq_true']
  rfl

theorem checkReplyAction_eq_false_iff {c : Impl} {par : ParamRegs} {act : BitVec 4} :
    checkReplyAction c par act = false ↔ ¬ RoleAccepts c par act := by
  rw [← roleCheckFollowsTheTable c par act, Bool.not_eq_true]

/-- The actions the matrix of R202 turns away, of those with a name. -/
theorem allowedAction_eq_false_iff {row : Row} {act : BitVec 4} (h : act.toNat ≤ 4) :
    allowedAction row act = false ↔
      (act = 0 ∧ row.allowGet = false) ∨ (act = 1 ∧ row.allowSet = false) ∨
        (act = 2 ∧ row.allowGet = false ∧ row.allowSet = false) ∨ ((act = 3 ∨ act = 4) ∧ row.allowCommand = false) := by
  rcases action_cases act with rfl | rfl | rfl | rfl | rfl | hgt
  · simp
  · simp
  · simp
  · simp
  · simp
  · omega

theorem sizeMismatch_eq_wrongSize (size : RowSize) (n : Nat) : sizeMismatch size n = wrongSize size n := by
  cases size with
  | fixed | unsupported | byValue => rfl

theorem readHeader_action (l : HeaderLayout) (m : Memory) :
    (readHeader l m).action = BitVec.ofNat 4 (m.read 46).toNat := by
  rw [BitVec.ofNat_toNat]; rfl

theorem be16_eq_ofNat (m : Memory) (a : Nat) : m.be16 a = BitVec.ofNat 16 (wireValue m a 2) := by
  rw [Memory.be16, beNat_readBytes]

/-- The MANAGEMENT branch answers the first test that fails (R241 to R247). -/
theorem parseData_code (c : Impl) (par : ParamRegs) {m : Memory} (h2 : 2 ≤ wireValue m 50 2) :
    (parseData c par (readHeader c.header m) (m.be16 52) (m.readBytes 54 (wireValue m 50 2 - 2))).code =
      managementOrder c par m := by
  unfold managementOrder
  simp only [if_neg (Nat.not_lt.mpr h2), ← be16_eq_ofNat, ← readHeader_action c.header, ← Memory.readBytes_eq_map]
  cases hreg : c.reg (m.be16 52) with
  | none => rw [parseData_of_none hreg]; rfl
  | some row =>
    rw [parseData_of_row hreg, Memory.readBytes_length, sizeMismatch_eq_wrongSize]
    simp only [apply_ite ParseEnd.code]
    refine ite_congr (propext gated_iff) (fun _ => rfl) fun _ => ?_
    refine ite_congr (propext checkReplyAction_eq_false_iff) (fun _ => rfl) fun hrole => ?_
    have hact := toNat_le_of_roleAccepts (not_not.mp hrole)
    refine ite_congr (propext (allowedAction_eq_false_iff hact)) (fun _ => rfl) fun _ => ?_
    cases c.procParse (m.be16 52) (readHeader c.header m).action (m.readBytes 54 (wireValue m 50 2 - 2)) with
    | error | ok => rfl

/-- PARSE's code, by the parts of a message. -/
theorem parseMessage_code_eq (c : Impl) (n : Nat) (s : State) :
    (parseMessage c n s).code =
      (headerError c.header s.rx n).getD
        (if n < headersLen then .tooSmall
        else if n = headersLen then .ok
        else (tlvHeadError s.rx n).getD
          (if s.rx.be16 offTlv = tlvErrorStatus then
            (parseErrorStatus (readHeader c.header s.rx)
              (openWindow .parse offTlvBody (offTlvBody + (s.rx.be16 offTlvLen).toNat) s)).code
          else
            (parseManagement c (readHeader c.header s.rx) (s.rx.be16 offTlvLen).toNat
              (openWindow .parse offTlvBody (offTlvBody + (s.rx.be16 offTlvLen).toNat) s)).code)) := by
  unfold parseMessage
  cases headerError c.header s.rx n with
  | some e => rfl
  | none =>
    cases tlvHeadError s.rx n with
    | some e => simp only [apply_ite ParseEnd.code]; rfl
    | none => simp only [apply_ite ParseEnd.code]; rfl

/-- PARSE answers the code of the first test of R251 that fails. -/
theorem parseMessage_code (c : Impl) (n : Nat) (s : State) : (parseMessage c n s).code = parseOrder c s.par s.rx n := by
  obtain ⟨hcur, hlim⟩ := tlvBody_window s (s.rx.be16 offTlvLen).isLt
  rw [Memory.toNat_be16, offTlvLen] at hcur hlim
  have hmanagement : (parseManagement c (readHeader c.header s.rx) (wireValue s.rx 50 2)
      (openWindow .parse offTlvBody (offTlvBody + wireValue s.rx 50 2) s)).code = managementOrder c s.par s.rx := by
    by_cases h2 : wireValue s.rx 50 2 < 2
    · rw [parseManagement_of_short (by rw [left]; omega), managementOrder, if_pos h2]
      rfl
    · rw [parseManagement_of_left (by rw [left]; omega), hcur]
      exact parseData_code c s.par (Nat.not_lt.mp h2)
  rw [parseMessage_code_eq, parseOrder_eq, Memory.toNat_be16, offTlvLen, hmanagement, parseErrorStatus_code _ hcur hlim]
  simp only [be16_eq_iff]
  rfl

/-! ### What PARSE leaves (R249) -/

theorem parseResults_perr (p : ParseEnd) (s : State) : (parseResults p s).perr = p.code := by
  cases p with
  | failed | noTlv | errorStatus | request | decoded => rfl

theorem parseWith_effect {c : Impl} {s : State} (hp : s.pv = true) (hn : s.x.x0.toNat ≤ c.rxSize) :
    ∃ t, parseWith c s = .next t ∧ ParseEffect c s t := by
  have hcode := parseMessage_code c s.x.x0.toNat s
  rw [parseWith_of_fits hp hn]
  generalize parseMessage c s.x.x0.toNat s = p at hcode ⊢
  exact ⟨_, rfl, rfl, hcode, parseResults_perr p s⟩

theorem parseWith_tooLong {c : Impl} {s : State} (hp : s.pv = true) (hn : c.rxSize < s.x.x0.toNat) :
    parseWith c s = .refused .lengthBeyondBuffer := (withParameters_of_pv hp).trans (if_neg (Nat.not_le.mpr hn))

/-- Settles O39: `parseWith_effect` within `RX_SIZE`, the refusal above it. -/
theorem parseReturnsTheFirstFailingTest : Obligations.ParseReturnsTheFirstFailingTest := by
  refine ⟨fun c s hp => ⟨parseWith_effect hp, parseWith_tooLong hp⟩, fun s hp hn => ?_⟩
  rw [exec_parse]
  exact parseWith_effect hp hn

/-- PARSE of a message whose end is known. -/
theorem parseWith_code {c : Impl} {s : State} {p : ParseEnd} (hp : s.pv = true) (hn : s.x.x0.toNat ≤ c.rxSize)
    (h : parseMessage c s.x.x0.toNat s = p) : ∃ t, parseWith c s = .next t ∧ t.st = p.code := by
  subst h
  exact ⟨_, parseWith_of_fits hp hn, rfl⟩

/-! ### A message cut by one octet (R254) -/

theorem parseMessage_of_headerError {c : Impl} {n : Nat} {s : State} {e : Code}
    (h : headerError c.header s.rx n = some e) : parseMessage c n s = .failed e := by
  rw [parseMessage, h]

theorem headerError_of_code {c : Impl} {n : Nat} {s : State}
    (h : (parseMessage c n s).code = .ok ∨ (parseMessage c n s).code = .msg) : headerError c.header s.rx n = none := by
  cases he : headerError c.header s.rx n with
  | none => rfl
  | some e =>
    obtain ⟨hok, hmsg⟩ := headerError_isFailure he
    rw [parseMessage_of_headerError he] at h
    exact (h.elim hok hmsg).elim

/-- Of a message that passes, one octet less is too small, whichever bound it falls under (R254). -/
theorem headerError_pred {l : HeaderLayout} {m : Memory} {n : Nat} (h : headerError l m n = none) :
    headerError l m (n - 1) = some .tooSmall := by
  obtain ⟨hmin, hlength, -⟩ := headerError_eq_none_iff.mp h
  rw [headerError_eq]
  by_cases h44 : n - 1 < 44
  · rw [if_pos h44]
  · rw [if_neg h44, if_pos (by omega)]

/-- Settles O41: the headers of the message pass, so those of the message cut do not. -/
theorem truncatedMessagesAreTooSmall : Obligations.TruncatedMessagesAreTooSmall := by
  intro c s t h hst
  obtain ⟨hp, hn, -⟩ := parseWith_next h
  rw [(parseWith_results h).1] at hst
  have hpass := headerError_of_code hst
  obtain ⟨hmin, -⟩ := headerError_eq_none_iff.mp hpass
  have hpred : (s.x.x0 - 1).toNat = s.x.x0.toNat - 1 :=
    BitVec.toNat_sub_of_le (BitVec.le_def.mpr (by simp; omega))
  refine parseWith_code (p := .failed .tooSmall) hp (by rw [hpred]; omega) (parseMessage_of_headerError ?_)
  rw [hpred]
  exact headerError_pred hpass

/-! ### Messages that pass the headers (R256 to R258) -/

theorem HeaderPasses.headerError {l : HeaderLayout} {m : Memory} {n : Nat} (h : HeaderPasses l m n) :
    headerError l m n = none := by
  obtain ⟨h48, hconstants⟩ := h
  exact headerError_eq_none_iff.mpr ⟨by omega, hconstants⟩

theorem parseMessage_of_tlvHeadError {c : Impl} {n : Nat} {s : State} {e : Code} (h : HeaderPasses c.header s.rx n)
    (hn : n ≠ 48) (he : tlvHeadError s.rx n = some e) : parseMessage c n s = .failed e := by
  have h48 : ¬ n < headersLen := Nat.not_lt.mpr h.1
  rw [parseMessage, h.headerError]
  simp only [if_neg h48, if_neg (show ¬ n = headersLen from hn), he]

/-- A message with a MANAGEMENT TLV that holds an ID ends as its ID, action and data decide (R241). -/
theorem parseMessage_of_managementPasses {c : Impl} {n : Nat} {s : State} (h : ManagementPasses c.header s.rx n) :
    parseMessage c n s = parseData c s.par (readHeader c.header s.rx) (s.rx.be16 52)
      (s.rx.readBytes 54 (wireValue s.rx 50 2 - 2)) := by
  obtain ⟨hheader, h54, htype, heven, h2, hfits⟩ := h
  obtain ⟨hcur, hlim⟩ := tlvBody_window s (s.rx.be16 offTlvLen).isLt
  have hlen : (s.rx.be16 offTlvLen).toNat = wireValue s.rx 50 2 := Memory.toNat_be16 s.rx 50
  have h48 : ¬ n < headersLen := Nat.not_lt.mpr hheader.1
  have hne : ¬ n = headersLen := by unfold headersLen; omega
  have htlv : tlvHeadError s.rx n = none := by
    rw [tlvHeadError_eq, if_neg (by omega), if_neg (by omega), if_neg (by omega), if_neg (by omega)]
  have hmanagement : ¬ s.rx.be16 offTlv = tlvErrorStatus := by
    rw [be16_eq_iff, offTlv, htype]; decide
  rw [parseMessage, hheader.headerError]
  simp only [if_neg h48, if_neg hne, htlv, if_neg hmanagement]
  rw [parseManagement_of_left (by rw [left]; omega), hcur, hlen]
  rfl

/-- An ID the registry does not know, or that is gated, is turned away whatever the action (R241). -/
theorem parseData_of_unknown {c : Impl} {par : ParamRegs} {h : ParsedHeader} {id : BitVec 16} {o : List Octet}
    (hid : c.reg id = none ∨ GatedId c par id) : parseData c par h id o = .failed .invalidId := by
  rcases hid with hnone | hgated
  · exact parseData_of_none hnone
  · obtain ⟨row, hrow, hgate⟩ := hgated
    rw [parseData_of_row hrow, if_pos (gated_iff.mpr hgate)]

theorem parseWith_of_unknown {c : Impl} {s : State} (hp : s.pv = true) (hn : s.x.x0.toNat ≤ c.rxSize)
    (hpass : ManagementPasses c.header s.rx s.x.x0.toNat)
    (hid : c.reg (s.rx.be16 52) = none ∨ GatedId c s.par (s.rx.be16 52)) :
    ∃ t, parseWith c s = .next t ∧ t.st = .invalidId :=
  parseWith_code (p := .failed .invalidId) hp hn
    ((parseMessage_of_managementPasses hpass).trans (parseData_of_unknown hid))

/-- Settles O42: `parseWith_of_unknown` at 0xFFFF. -/
theorem unknownIdIsInvalid : Obligations.UnknownIdIsInvalid := by
  intro c s hreg hp hn hpass hid
  have hall : s.rx.be16 52 = 0xFFFF := be16_eq_iff.mpr hid
  exact parseWith_of_unknown hp hn hpass (.inl (hall ▸ hreg))

/-- Settles O43: the parity of `lengthField` is tested before its bound. -/
theorem oddLengthFieldReturnsSize : Obligations.OddLengthFieldReturnsSize := by
  intro c s hp hn hpass h52 htype hodd
  refine parseWith_code (p := .failed .size) hp hn (parseMessage_of_tlvHeadError hpass (by omega) ?_)
  rw [tlvHeadError_eq, if_neg (by omega), if_neg (by omega), if_pos hodd]

/-- Settles O44: the ID is looked up before the role is tested. -/
theorem rejectedRolesReturnAction : Obligations.RejectedRolesReturnAction := by
  intro c s hp hn hpass
  rw [← be16_eq_ofNat, ← readHeader_action c.header]
  refine ⟨fun hknown hopen hrole => ?_, parseWith_of_unknown hp hn hpass⟩
  obtain ⟨row, hrow⟩ := Option.isSome_iff_exists.mp hknown
  refine parseWith_code (p := .failed .action) hp hn ?_
  rw [parseMessage_of_managementPasses hpass, parseData_of_row hrow, if_neg (mt (gatedId_iff hrow).mpr hopen),
    if_pos (checkReplyAction_eq_false_iff.mpr hrole)]

/-- Settles O45: the gate closes the ID to `ActionValid`, to BUILD's test and to PARSE's. -/
theorem closedGateTurnsTheIdAway : Obligations.ClosedGateTurnsTheIdAway := by
  intro c id row s hrow honly hp hclosed
  have hgated : GatedId c s.par id := ⟨row, hrow, honly, hclosed⟩
  refine ⟨fun v act => ?_, fun ha hid seq => ?_, fun ha hid hcap seq => ?_, fun hn hpass hid => ?_⟩
  · exact setActionWith_of_not_actionValid hp fun ⟨_, _, hopen, _⟩ => hopen hgated
  · obtain ⟨t, ht, -, hunsupport, -⟩ := buildWith_effect c seq hp ha
    exact ⟨t, ht, hunsupport (hid ▸ hgated)⟩
  · obtain ⟨t, ht, -, hunsupport, -⟩ := buildCapWith_effect c seq hp ha hcap
    exact ⟨t, ht, hunsupport (hid ▸ hgated)⟩
  · exact parseWith_of_unknown hp hn hpass (.inr (be16_eq_iff.mpr hid ▸ hgated))

end Sys2Proof.Machine
end

section
/-! BUILD, then PARSE of its own output: the message BUILD left passes every test, and each field comes back
(42_frame_engine.md R255; 43_collaborator_ports.md R268). -/

namespace Sys2Proof.Machine

/-! ### Reading the fields of a message -/

theorem be16_of_readBytes {m : Memory} {a : Nat} {v : BitVec 16} (h : m.readBytes a 2 = octetsBE 2 v.toNat) :
    m.be16 a = v := be16_eq_iff.mpr (wireValue_of_octetsBE h v.isLt (by norm_num))

theorem be64_of_readBytes {m : Memory} {a : Nat} {v : BitVec 64} (h : m.readBytes a 8 = octetsBE 8 v.toNat) :
    m.be64 a = v := by
  rw [← BitVec.toNat_inj, Memory.toNat_be64, wireValue_of_octetsBE h v.isLt le_rfl]

/-- The unicast flag, set under the mask or clear, is read back: the mask is not zero (R117). -/
theorem flag_readBack {l : HeaderLayout} (hl : l.wf = true) (b : Bool) :
    ((if b then l.unicastMask else 0) &&& l.unicastMask != 0) = b := by
  have hmask := ((HeaderLayout.wf_iff l).1 hl).2.2
  have hne : l.unicastMask ≠ 0 := by
    rintro h
    rw [h] at hmask
    revert hmask; decide
  cases b with
  | false => simp
  | true => simpa using hne

section
variable {l : HeaderLayout} {par : ParamRegs} {act : BitVec 4} {id seq : BitVec 16} {data : List Octet} {m : Memory}

/-- A header field of a held message, its first octet. -/
theorem HoldsMessage.headerRead (h : HoldsMessage l par act id seq data m) {a : Nat} {o : Octet} {os : List Octet}
    (hm : (a, o :: os) ∈ builtHeaderFields l par seq (54 + (data ++ padOf data).length)) : m.read a = o :=
  List.head_eq_of_cons_eq (h.headerField hm)

/-- A held message passes R235 to R239. -/
theorem HoldsMessage.managementPasses (h : HoldsMessage l par act id seq data m)
    (hlen : 54 + (data ++ padOf data).length ≤ 65535) :
    ManagementPasses l m (54 + (data ++ padOf data).length) := by
  have heven := dataAndPad_even data
  have hver : m.read l.offVer = 0x02 := h.headerRead (os := []) (by simp [builtHeaderFields])
  have htsmt : m.read l.offTsmt = par.ts ++ 0xD#4 := h.headerRead (os := []) (by simp [builtHeaderFields])
  have hcontrol : m.read l.offControl = 0x04 := h.headerRead (os := []) (by simp [builtHeaderFields])
  have hnibble : ∀ ts : BitVec 4, (ts ++ 0xD#4).toNat % 16 = 13 := by decide
  refine ⟨⟨by omega, h.messageLength hlen, ?_, ?_, ?_⟩, by omega, h.tlvType, ?_, ?_, ?_⟩
  · rw [hver]; rfl
  · rw [htsmt]; exact hnibble par.ts
  · rw [hcontrol]; rfl
  · rw [h.lengthField]; omega
  · rw [h.lengthField]; omega
  · rw [h.lengthField]; omega

/-- The headers of a held message give back what the build was given (R237, R238). -/
theorem HoldsMessage.readHeader_eq (h : HoldsMessage l par act id seq data m) (hl : l.wf = true) :
    readHeader l m = { seq := seq, peer := par.selfId, unicast := par.unicast, action := act } := by
  have hseq : m.readBytes 30 2 = octetsBE 2 seq.toNat := by
    simpa using h.headerField (a := 30) (o := octetsBE 2 seq.toNat) (by simp [builtHeaderFields])
  have hpeer : m.readBytes l.offSrcPort (8 + 2) =
      octetsBE 8 par.selfId.cid.toNat ++ octetsBE 2 par.selfId.port.toNat := by
    simpa using h.headerField (a := l.offSrcPort)
      (o := octetsBE 8 par.selfId.cid.toNat ++ octetsBE 2 par.selfId.port.toNat) (by simp [builtHeaderFields])
  rw [Memory.readBytes_add] at hpeer
  obtain ⟨hcid, hport⟩ := List.append_inj hpeer (by simp)
  have hflags : m.read l.offFlags = if par.unicast then l.unicastMask else 0 :=
    h.headerRead (os := [0]) (by simp [builtHeaderFields])
  have hnibble : ∀ a : BitVec 4, (0#4 ++ a).setWidth 4 = a := by decide
  unfold readHeader
  rw [offSeq, offAction, be16_of_readBytes hseq, be64_of_readBytes hcid, be16_of_readBytes hport, hflags,
    flag_readBack hl, h.action, hnibble]

end

/-! ### Parsing a built message -/

/-- A MANAGEMENT TLV that PARSE accepts ends with its value decoded (R241 to R247). -/
theorem parseData_decoded {c : Impl} {par : ParamRegs} {h : ParsedHeader} {id : BitVec 16} {o : List Octet} {row : Row}
    {v : Val} (hrow : c.reg id = some row) (hopen : ¬ GatedId c par id) (hrole : RoleAccepts c par h.action)
    (hallowed : allowedAction row h.action = true) (hsize : row.size ≠ .unsupported) (hget : h.action ≠ 0)
    (hfixed : sizeMismatch row.size o.length = false) (hv : c.procParse id h.action o = .ok v) :
    parseData c par h id o = .decoded h id v := by
  rw [parseData_of_row hrow, if_neg (mt (gatedId_iff hrow).mpr hopen),
    if_neg (mt checkReplyAction_eq_false_iff.mp (not_not.mpr hrole)), if_neg (by simp [hallowed]), if_neg hsize,
    if_neg hget, if_neg (by simp [hfixed]), hv]
  rfl

theorem dataAndPad_length (data : List Octet) : (data ++ padOf data).length = evenup data.length := by
  rw [List.length_append, padOf, evenup]
  split_ifs
  · rw [List.length_singleton]; omega
  · rw [List.length_nil]; omega

/-- A dataField of the fixed size, padded, passes the size check (R246). -/
theorem sizeMismatch_dataAndPad {size : RowSize} {data : List Octet} (h : ∀ k, size = .fixed k → data.length = k) :
    sizeMismatch size (data ++ padOf data).length = false := by
  cases size with
  | fixed k => rw [dataAndPad_length, h k rfl]; exact bne_self_eq_false _
  | unsupported | byValue => rfl

/-- The gate of an ID depends on `P_LINUXPTP` alone. -/
theorem gatedId_congr {c : Impl} {par par' : ParamRegs} {id : BitVec 16} (h : par'.linuxptp = par.linuxptp) :
    GatedId c par' id ↔ GatedId c par id := by
  unfold GatedId
  rw [h]

/-- Octets copied to another memory are the same string there. -/
theorem Stores.copied {m m' r : Memory} {o : List Octet} (h : Stores m m' 0 o)
    (hr : ∀ a < o.length, r.read a = m'.read a) : Stores r r 0 o := by
  refine ⟨fun j hj => ?_, fun _ _ => rfl⟩
  rw [← h.1 j hj, Nat.zero_add, hr j hj]

theorem Stores.read_eq {m m' k k' : Memory} {o : List Octet} (h : Stores m m' 0 o) (h' : Stores k k' 0 o) {a : Nat}
    (ha : a < o.length) : m'.read a = k'.read a := by
  have hread := (h.1 a ha).trans (h'.1 a ha).symm
  rwa [Nat.zero_add] at hread

/-- PARSE of a held message whose ID, action and data it accepts (R235 to R247). -/
theorem parseMessage_of_holdsMessage {c : Impl} {par : ParamRegs} {act : BitVec 4} {id seq : BitVec 16}
    {data : List Octet} {row : Row} {v : Val} {u : State} (h : HoldsMessage c.header par act id seq data u.rx)
    (hlen : 54 + (data ++ padOf data).length ≤ 65535) (hrow : c.reg id = some row) (hopen : ¬ GatedId c u.par id)
    (hrole : RoleAccepts c u.par act) (hallowed : allowedAction row act = true) (hsize : row.size ≠ .unsupported)
    (hget : act ≠ 0) (hfixed : ∀ k, row.size = .fixed k → data.length = k)
    (hv : c.procParse id act (data ++ padOf data) = .ok v) :
    parseMessage c (54 + (data ++ padOf data).length) u = .decoded ⟨seq, par.selfId, par.unicast, act⟩ id v := by
  have hid : u.rx.be16 52 = id := be16_eq_iff.mpr h.managementId
  rw [parseMessage_of_managementPasses (h.managementPasses hlen), h.readHeader_eq c.headerOk, hid, h.lengthField,
    Nat.add_sub_cancel_left, h.dataField]
  exact parseData_decoded hrow hopen hrole hallowed hsize hget (sizeMismatch_dataAndPad hfixed) hv

/-- Settles O46: the message copied to `RX` is held there, so PARSE reads every field back; and the value decoded builds
the same message. -/
theorem parseOfBuildGivesTheValueBack : Obligations.ParseOfBuildGivesTheValueBack := by
  intro c seq s t u row data v haction hbuild hst hrow hfixed hdata hparse hrebuild hp hptp hget hrole hx hn hcopied
  obtain ⟨hpv, hav, hinto⟩ := whenBuildable_next hbuild
  have hsize := txSize_le c
  obtain ⟨hopen, data', hdata', hfits, hx0, hstores⟩ := (buildEffect_of_next (by omega) hinto).of_ok hst
  cases hdata.symm.trans hdata'
  obtain ⟨-, -, -, row', hrow', hsupported, hallowed⟩ := haction hav
  cases hrow.symm.trans hrow'
  have hlength := framedMessage_length c.header s.par s.act.action s.act.id seq data
  have hlen : t.x.x0.toNat = 54 + (data ++ padOf data).length := by
    rw [hx0, BitVec.toNat_ofNat, Nat.mod_eq_of_lt (by omega)]
  constructor
  · have hholds : HoldsMessage c.header s.par s.act.action s.act.id seq data u.rx :=
      (hstores.copied fun a ha => hcopied a (by rw [hx, hlen]; omega)).holdsMessage c.headerOk (by omega)
    have hend := parseMessage_of_holdsMessage hholds (by omega) hrow (mt (gatedId_congr hptp).mp hopen) hrole hallowed
      hsupported hget hfixed hparse
    rw [← hlen, ← hx] at hend
    refine ⟨_, (parseWith_of_fits hp hn).trans rfl, ?_⟩
    rw [hend]
    exact ⟨rfl, rfl, rfl, rfl, rfl, rfl, rfl, rfl, rfl⟩
  · obtain ⟨r, hr, heffect⟩ := buildWith_effect c seq
      (s := { s with act := { s.act with dsValid := true, dataSend := v } }) hpv hav
    obtain ⟨hrst, hrx0, hrstores⟩ := heffect.done hopen hrebuild (hlength.trans_le hfits)
    refine ⟨r, hr, hrst, ?_, fun a ha => hrstores.read_eq hstores ?_⟩
    · rw [hrx0, hx0, framedMessage_length]
    · rwa [hlength, ← hlen]

end Sys2Proof.Machine
end

section
/-! The codes each command returns and the cases in which it is refused (60_exceptions.md R293, R295). -/

namespace Sys2Proof.Machine

/-! ### The codes of a row -/

/-- The row of every read and write command lists `OK` and `TOO_SMALL`, whatever else it lists. -/
theorem ok_tooSmall_mem_codesOf {i : Instr} (hi : i ∈ readCommands ∨ i ∈ writeCommands) :
    Code.ok ∈ codesOf i ∧ Code.tooSmall ∈ codesOf i :=
  (by decide : ∀ j ∈ readCommands ++ writeCommands, Code.ok ∈ codesOf j ∧ Code.tooSmall ∈ codesOf j) i
    (List.mem_append.mpr hi)

theorem val_mem_codesOf {i : Instr} (hi : i ∈ [Instr.wrU48, .wrI48, .wrTimestamp]) : Code.val ∈ codesOf i :=
  (by decide : ∀ j ∈ [Instr.wrU48, .wrI48, .wrTimestamp], Code.val ∈ codesOf j) i hi

/-- PARSE's row lists every code. -/
theorem mem_codesOf_parse (e : Code) : e ∈ codesOf .parse := by cases e <;> decide

theorem CodecEffect.st_mem_codesOf {s t : State} {i : Instr} (h : CodecEffect s i t) : t.st ∈ codesOf i := by
  cases h with
  | read _ _ hi | read2 _ _ _ hi => exact (ok_tooSmall_mem_codesOf (.inl hi)).1
  | readShort _ hi => exact (ok_tooSmall_mem_codesOf (.inl hi)).2
  | write _ _ hi _ _ he =>
    obtain ⟨hok, hshort⟩ := ok_tooSmall_mem_codesOf (.inr hi)
    rcases he with rfl | rfl
    · exact hok
    · exact hshort
  | range hi => exact val_mem_codesOf hi

theorem Effect.st_mem_codesOf {s t : State} {i : Instr} (h : Effect s i t) : t.st ∈ codesOf i := by
  cases h with
  | codec _ _ h => exact h.st_mem_codesOf
  | openRd | openWr | close | paramsTaken | paramsRejected | setAllPorts | isAllPorts | actionTaken | actionRejected =>
    exact List.mem_singleton_self _
  | build _ _ _ _ hi he => rcases hi with ⟨_, rfl⟩ | ⟨_, rfl⟩ <;> exact he
  | parse => exact mem_codesOf_parse _

/-- Settles O57: the code of each effect is in its command's row. -/
theorem commandsReturnOnlyTheirCodes : Obligations.CommandsReturnOnlyTheirCodes :=
  fun i _ _ h => (exec_effect i h).st_mem_codesOf

/-! ### The rows of the list of refusals -/

theorem precondition_of_read {i : Instr} (s : State) (hi : i ∈ readCommands) : Precondition s i ↔ s.dir = .parse := by
  cases i with
  | rdU8 | rdU16 | rdU32 | rdU48 | rdU64 | rdI8 | rdI16 | rdI32 | rdI48 | rdI64 | rdU64le | rdTimestamp | rdClockid
  | rdPortid => rfl
  | _ => simp [readCommands] at hi

theorem precondition_of_write {i : Instr} (s : State) (hi : i ∈ writeCommands) : Precondition s i ↔ s.dir = .build := by
  cases i with
  | wrU8 | wrU16 | wrU32 | wrU48 | wrU64 | wrI8 | wrI16 | wrI32 | wrI48 | wrI64 | wrU64le | wrTimestamp | wrClockid
  | wrPortid => rfl
  | _ => simp [writeCommands] at hi

theorem IsBuild.pv_and_av {i : Instr} {s : State} (hi : IsBuild i) (h : Precondition s i) :
    s.pv = true ∧ s.av = true := by
  obtain ⟨seq, rfl | rfl⟩ := hi
  · exact h
  · exact ⟨h.1, h.2.1⟩

theorem NeedsParameters.pv {i : Instr} {s : State} (hi : NeedsParameters i) (h : Precondition s i) : s.pv = true := by
  rcases hi with rfl | rfl | ⟨v, act, id, rfl⟩ | hi | rfl
  · exact h
  · exact h
  · exact h
  · exact (hi.pv_and_av h).1
  · exact h.1

/-- Settles O59: a command is refused where its precondition fails. Each failure is a row of the list, and every row makes the
precondition of its commands fail. -/
theorem commandsAreRefusedExactlyAsListed : Obligations.CommandsAreRefusedExactlyAsListed := by
  intro i s
  rw [(exec_completesWhen i s).refused_iff]
  constructor
  · intro h
    cases i with
    | rdU8 | rdU16 | rdU32 | rdU48 | rdU64 | rdI8 | rdI16 | rdI32 | rdI48 | rdI64 | rdU64le | rdTimestamp | rdClockid
    | rdPortid => exact .inl ⟨by decide, h⟩
    | wrU8 | wrU16 | wrU32 | wrU48 | wrU64 | wrI8 | wrI16 | wrI32 | wrI48 | wrI64 | wrU64le | wrTimestamp | wrClockid
    | wrPortid => exact .inr (.inl ⟨by decide, h⟩)
    | close | updateParams => exact absurd trivial h
    | openRd | openWr | setAllPorts | isAllPorts | setAction | build | buildCap | parse =>
      simpa [Precondition, readCommands, writeCommands, NeedsParameters, IsBuild, not_and_or, -not_and] using h
  · rintro (⟨hi, hd⟩ | ⟨hi, hd⟩ | ⟨rfl, hl⟩ | ⟨rfl, hl⟩ | ⟨hi, hp⟩ | ⟨hi, ha⟩ | ⟨⟨seq, rfl⟩, hl⟩ | ⟨rfl, hl⟩) h
    · exact hd ((precondition_of_read s hi).mp h)
    · exact hd ((precondition_of_write s hi).mp h)
    · exact Nat.not_le.mpr hl h
    · exact Nat.not_le.mpr hl h
    · exact Bool.false_ne_true (hp.symm.trans (hi.pv h))
    · exact Bool.false_ne_true (ha.symm.trans (hi.pv_and_av h).2)
    · exact Nat.not_le.mpr hl h.2.2
    · exact Nat.not_le.mpr hl h.2

end Sys2Proof.Machine
end

section
/-! The equation of a step when the host has nothing more to ask: the branch of `step` beside those of a command, a port access
and an octet of a buffer (R324). -/

namespace Sys2Proof.Machine

/-- Settles O6: an empty host list selects the first branch of `step`, which answers the state it was given. -/
theorem idleEngineWaits : Obligations.IdleEngineWaits := by
  intro s hs
  simp only [step, hs]

end Sys2Proof.Machine
end
